-- ==== Sys2Proof/Word.lean ====
section
/-! DEFINITION. The word types of the machine: bytes of the module image and the bit patterns of `Real_t`. -/

namespace Sys2Proof

/-- A byte of the module image (20_memory.md R80). -/
abbrev Byte := BitVec 8

/-- A 32-bit pattern cell, the big-endian word of 00_scope.md R9. -/
abbrev CellWord := BitVec 32

/-- `Real_t`: the bit pattern of an IEEE 754 binary64 number (00_scope.md R17). DESIGN CHOICE (log 4): the spec's
parameter `NUM` is fixed to its reference instance. -/
abbrev Binary64 := BitVec 64

end Sys2Proof
end

