-- ==== Sys2Proof/Syntax.lean ====
section
/-! DEFINITION. The instruction set: one constructor per row of spec/opcode_table.json, in the table's order. Every
constructor carries the cell's sample number `smp` (8 bits) and `period` (12 bits) before the opcode's own operands
(30_encoding.md R121, R122, R126). -/

namespace Sys2Proof

/-- A pattern cell, decoded (30_encoding.md R123, R124). -/
inductive Instr where
  /-- command 0, arpeggio (41_pitch_effects.md R182) -/
  | arp (smp : BitVec 8) (period : BitVec 12) (x y : BitVec 4)
  /-- command 1, period down (R183) -/
  | portup (smp : BitVec 8) (period : BitVec 12) (data : BitVec 8)
  /-- command 2, period up (R184) -/
  | portdn (smp : BitVec 8) (period : BitVec 12) (data : BitVec 8)
  /-- command 3, tone portamento (R185) -/
  | toneporta (smp : BitVec 8) (period : BitVec 12) (data : BitVec 8)
  /-- command 4, vibrato (R186) -/
  | vibrato (smp : BitVec 8) (period : BitVec 12) (x y : BitVec 4)
  /-- command 5, tone portamento and volume slide (R187) -/
  | tonevol (smp : BitVec 8) (period : BitVec 12) (x y : BitVec 4)
  /-- command 6, vibrato and volume slide (R188) -/
  | vibvol (smp : BitVec 8) (period : BitVec 12) (x y : BitVec 4)
  /-- command 7, no-op slot (43_flow_effects.md R250) -/
  | nop7 (smp : BitVec 8) (period : BitVec 12) (data : BitVec 8)
  /-- command 8, no-op slot (R251) -/
  | nop8 (smp : BitVec 8) (period : BitVec 12) (data : BitVec 8)
  /-- command 9, sample offset (42_volume_sample_effects.md R211) -/
  | offset (smp : BitVec 8) (period : BitVec 12) (data : BitVec 8)
  /-- command A, volume slide (R212) -/
  | volslide (smp : BitVec 8) (period : BitVec 12) (x y : BitVec 4)
  /-- command B, position jump (43_flow_effects.md R230) -/
  | jump (smp : BitVec 8) (period : BitVec 12) (data : BitVec 8)
  /-- command C, set volume (42_volume_sample_effects.md R213) -/
  | setvol (smp : BitVec 8) (period : BitVec 12) (data : BitVec 8)
  /-- command D, pattern break (43_flow_effects.md R231) -/
  | brk (smp : BitVec 8) (period : BitVec 12) (x y : BitVec 4)
  /-- command F, ticks per row or tempo (R235) -/
  | speed (smp : BitVec 8) (period : BitVec 12) (data : BitVec 8)
  /-- command E0, filter flag (R232) -/
  | filter (smp : BitVec 8) (period : BitVec 12) (y : BitVec 4)
  /-- command E1, fine period down (41_pitch_effects.md R189) -/
  | fineup (smp : BitVec 8) (period : BitVec 12) (y : BitVec 4)
  /-- command E2, fine period up (R190) -/
  | finedn (smp : BitVec 8) (period : BitVec 12) (y : BitVec 4)
  /-- command E3, no-op slot (43_flow_effects.md R252) -/
  | nope3 (smp : BitVec 8) (period : BitVec 12) (y : BitVec 4)
  /-- command E4, vibrato waveform (41_pitch_effects.md R191) -/
  | vibwave (smp : BitVec 8) (period : BitVec 12) (y : BitVec 4)
  /-- command E5, no-op slot (43_flow_effects.md R253) -/
  | nope5 (smp : BitVec 8) (period : BitVec 12) (y : BitVec 4)
  /-- command E6, pattern loop (R233) -/
  | loop (smp : BitVec 8) (period : BitVec 12) (y : BitVec 4)
  /-- command E7, no-op slot (R254) -/
  | nope7 (smp : BitVec 8) (period : BitVec 12) (y : BitVec 4)
  /-- command E8, no-op slot (R255) -/
  | nope8 (smp : BitVec 8) (period : BitVec 12) (y : BitVec 4)
  /-- command E9, retrigger (42_volume_sample_effects.md R214) -/
  | retrig (smp : BitVec 8) (period : BitVec 12) (y : BitVec 4)
  /-- command EA, fine volume up (R215) -/
  | finevolup (smp : BitVec 8) (period : BitVec 12) (y : BitVec 4)
  /-- command EB, fine volume down (R216) -/
  | finevoldn (smp : BitVec 8) (period : BitVec 12) (y : BitVec 4)
  /-- command EC, note cut (R217) -/
  | cut (smp : BitVec 8) (period : BitVec 12) (y : BitVec 4)
  /-- command ED, note delay (R218) -/
  | delaynote (smp : BitVec 8) (period : BitVec 12) (y : BitVec 4)
  /-- command EE, pattern delay (43_flow_effects.md R234) -/
  | delaypat (smp : BitVec 8) (period : BitVec 12) (y : BitVec 4)
  /-- command EF, no-op slot (R256) -/
  | nopef (smp : BitVec 8) (period : BitVec 12) (y : BitVec 4)
  deriving DecidableEq, Repr

/-- The 31 opcodes, without operands: a row of spec/opcode_table.json. -/
inductive Opcode where
  | arp | portup | portdn | toneporta | vibrato | tonevol | vibvol | nop7 | nop8 | offset | volslide | jump | setvol
  | brk | speed | filter | fineup | finedn | nope3 | vibwave | nope5 | loop | nope7 | nope8 | retrig | finevolup
  | finevoldn | cut | delaynote | delaypat | nopef
  deriving DecidableEq, Repr

/-- The opcode of an instruction. -/
def Instr.opcode : Instr → Opcode
  | .arp _ _ _ _ => .arp
  | .portup _ _ _ => .portup
  | .portdn _ _ _ => .portdn
  | .toneporta _ _ _ => .toneporta
  | .vibrato _ _ _ _ => .vibrato
  | .tonevol _ _ _ _ => .tonevol
  | .vibvol _ _ _ _ => .vibvol
  | .nop7 _ _ _ => .nop7
  | .nop8 _ _ _ => .nop8
  | .offset _ _ _ => .offset
  | .volslide _ _ _ _ => .volslide
  | .jump _ _ _ => .jump
  | .setvol _ _ _ => .setvol
  | .brk _ _ _ _ => .brk
  | .speed _ _ _ => .speed
  | .filter _ _ _ => .filter
  | .fineup _ _ _ => .fineup
  | .finedn _ _ _ => .finedn
  | .nope3 _ _ _ => .nope3
  | .vibwave _ _ _ => .vibwave
  | .nope5 _ _ _ => .nope5
  | .loop _ _ _ => .loop
  | .nope7 _ _ _ => .nope7
  | .nope8 _ _ _ => .nope8
  | .retrig _ _ _ => .retrig
  | .finevolup _ _ _ => .finevolup
  | .finevoldn _ _ _ => .finevoldn
  | .cut _ _ _ => .cut
  | .delaynote _ _ _ => .delaynote
  | .delaypat _ _ _ => .delaypat
  | .nopef _ _ _ => .nopef

/-- The sample number of the cell (30_encoding.md R122). -/
def Instr.smp : Instr → BitVec 8
  | .arp smp _ _ _ => smp
  | .portup smp _ _ => smp
  | .portdn smp _ _ => smp
  | .toneporta smp _ _ => smp
  | .vibrato smp _ _ _ => smp
  | .tonevol smp _ _ _ => smp
  | .vibvol smp _ _ _ => smp
  | .nop7 smp _ _ => smp
  | .nop8 smp _ _ => smp
  | .offset smp _ _ => smp
  | .volslide smp _ _ _ => smp
  | .jump smp _ _ => smp
  | .setvol smp _ _ => smp
  | .brk smp _ _ _ => smp
  | .speed smp _ _ => smp
  | .filter smp _ _ => smp
  | .fineup smp _ _ => smp
  | .finedn smp _ _ => smp
  | .nope3 smp _ _ => smp
  | .vibwave smp _ _ => smp
  | .nope5 smp _ _ => smp
  | .loop smp _ _ => smp
  | .nope7 smp _ _ => smp
  | .nope8 smp _ _ => smp
  | .retrig smp _ _ => smp
  | .finevolup smp _ _ => smp
  | .finevoldn smp _ _ => smp
  | .cut smp _ _ => smp
  | .delaynote smp _ _ => smp
  | .delaypat smp _ _ => smp
  | .nopef smp _ _ => smp

/-- The period of the cell (30_encoding.md R122). -/
def Instr.period : Instr → BitVec 12
  | .arp _ period _ _ => period
  | .portup _ period _ => period
  | .portdn _ period _ => period
  | .toneporta _ period _ => period
  | .vibrato _ period _ _ => period
  | .tonevol _ period _ _ => period
  | .vibvol _ period _ _ => period
  | .nop7 _ period _ => period
  | .nop8 _ period _ => period
  | .offset _ period _ => period
  | .volslide _ period _ _ => period
  | .jump _ period _ => period
  | .setvol _ period _ => period
  | .brk _ period _ _ => period
  | .speed _ period _ => period
  | .filter _ period _ => period
  | .fineup _ period _ => period
  | .finedn _ period _ => period
  | .nope3 _ period _ => period
  | .vibwave _ period _ => period
  | .nope5 _ period _ => period
  | .loop _ period _ => period
  | .nope7 _ period _ => period
  | .nope8 _ period _ => period
  | .retrig _ period _ => period
  | .finevolup _ period _ => period
  | .finevoldn _ period _ => period
  | .cut _ period _ => period
  | .delaynote _ period _ => period
  | .delaypat _ period _ => period
  | .nopef _ period _ => period

end Sys2Proof
end

