-- ==== Sys2Proof/Decode.lean ====
section
/-! DEFINITION. The decoder and the encoder of the one format CELL (30_encoding.md R120 to R125), and the opcode map of
R133 as a table of match and mask. -/

namespace Sys2Proof

/-- Why the decoder refuses a byte string. No 32-bit cell is refused (30_encoding.md R127). -/
inductive DecodeError where
  /-- fewer than the four bytes of a cell are there (R120) -/
  | truncated
  deriving DecidableEq, Repr

/-- Field `period`, bits 27:16 (30_encoding.md R121, R122). -/
def cellPeriod (w : CellWord) : BitVec 12 := w.extractLsb' 16 12

/-- Field `smpnum`, `cell[31:28] : cell[15:12]` (30_encoding.md R122). -/
def cellSmp (w : CellWord) : BitVec 8 := (w.extractLsb' 28 4) ++ (w.extractLsb' 12 4)

/-- Field `cmd`, bits 11:8 (30_encoding.md R121). -/
def cellCmd (w : CellWord) : BitVec 4 := w.extractLsb' 8 4

/-- Field `data`, bits 7:0 (30_encoding.md R121). -/
def cellData (w : CellWord) : BitVec 8 := w.extractLsb' 0 8

/-- `x`, the high nibble of a data byte (00_scope.md R9). -/
def dataX (d : BitVec 8) : BitVec 4 := d.extractLsb' 4 4

/-- `y`, the low nibble of a data byte (00_scope.md R9). -/
def dataY (d : BitVec 8) : BitVec 4 := d.extractLsb' 0 4

/-- The extended map: command E, selected by `x` (30_encoding.md R124, R125). -/
def decodeExtended (smp : BitVec 8) (period : BitVec 12) (x y : BitVec 4) : Instr :=
  match x.toNat with
  | 0x0 => .filter smp period y
  | 0x1 => .fineup smp period y
  | 0x2 => .finedn smp period y
  | 0x3 => .nope3 smp period y
  | 0x4 => .vibwave smp period y
  | 0x5 => .nope5 smp period y
  | 0x6 => .loop smp period y
  | 0x7 => .nope7 smp period y
  | 0x8 => .nope8 smp period y
  | 0x9 => .retrig smp period y
  | 0xA => .finevolup smp period y
  | 0xB => .finevoldn smp period y
  | 0xC => .cut smp period y
  | 0xD => .delaynote smp period y
  | 0xE => .delaypat smp period y
  | _ => .nopef smp period y -- the sixteenth value, 0xF

/-- The primary map, selected by `cmd` (30_encoding.md R123), over the assembled fields. -/
def decodeFields (smp : BitVec 8) (period : BitVec 12) (cmd : BitVec 4) (d : BitVec 8) : Instr :=
  match cmd.toNat with
  | 0x0 => .arp smp period (dataX d) (dataY d)
  | 0x1 => .portup smp period d
  | 0x2 => .portdn smp period d
  | 0x3 => .toneporta smp period d
  | 0x4 => .vibrato smp period (dataX d) (dataY d)
  | 0x5 => .tonevol smp period (dataX d) (dataY d)
  | 0x6 => .vibvol smp period (dataX d) (dataY d)
  | 0x7 => .nop7 smp period d
  | 0x8 => .nop8 smp period d
  | 0x9 => .offset smp period d
  | 0xA => .volslide smp period (dataX d) (dataY d)
  | 0xB => .jump smp period d
  | 0xC => .setvol smp period d
  | 0xD => .brk smp period (dataX d) (dataY d)
  | 0xE => decodeExtended smp period (dataX d) (dataY d)
  | _ => .speed smp period d -- the sixteenth value, 0xF

/-- Every cell decodes (30_encoding.md R127). -/
def decodeCell (w : CellWord) : Instr :=
  decodeFields (cellSmp w) (cellPeriod w) (cellCmd w) (cellData w)

/-- The decoder on bytes in ascending address order (00_scope.md R9): the instruction and the bytes after it. -/
def decode : List Byte → Except DecodeError (Instr × List Byte)
  | b0 :: b1 :: b2 :: b3 :: rest => .ok (decodeCell (b0 ++ b1 ++ b2 ++ b3), rest)
  | _ => .error .truncated

/-- The host's reading of a table row: the instruction whose 32-bit cell is `w`, bits above `nbits` zero. -/
def decodeTableWord (nbits w : Nat) : Option Instr :=
  if nbits ≤ 32 then
    let c : CellWord := BitVec.ofNat 32 (w % 2 ^ nbits)
    match decode [c.extractLsb' 24 8, c.extractLsb' 16 8, c.extractLsb' 8 8, c.extractLsb' 0 8] with
    | .ok (i, _) => some i
    | .error _ => none
  else none

/-- A cell from its assembled fields (30_encoding.md R121). -/
def packCell (smp : BitVec 8) (period : BitVec 12) (cmd : BitVec 4) (d : BitVec 8) : CellWord :=
  dataX smp ++ period ++ dataY smp ++ cmd ++ d

/-- The encoder: the cell of an instruction (30_encoding.md R121 to R124). -/
def encode : Instr → CellWord
  | .arp smp p x y => packCell smp p 0x0 (x ++ y)
  | .portup smp p d => packCell smp p 0x1 d
  | .portdn smp p d => packCell smp p 0x2 d
  | .toneporta smp p d => packCell smp p 0x3 d
  | .vibrato smp p x y => packCell smp p 0x4 (x ++ y)
  | .tonevol smp p x y => packCell smp p 0x5 (x ++ y)
  | .vibvol smp p x y => packCell smp p 0x6 (x ++ y)
  | .nop7 smp p d => packCell smp p 0x7 d
  | .nop8 smp p d => packCell smp p 0x8 d
  | .offset smp p d => packCell smp p 0x9 d
  | .volslide smp p x y => packCell smp p 0xA (x ++ y)
  | .jump smp p d => packCell smp p 0xB d
  | .setvol smp p d => packCell smp p 0xC d
  | .brk smp p x y => packCell smp p 0xD (x ++ y)
  | .speed smp p d => packCell smp p 0xF d
  | .filter smp p y => packCell smp p 0xE (0x0#4 ++ y)
  | .fineup smp p y => packCell smp p 0xE (0x1#4 ++ y)
  | .finedn smp p y => packCell smp p 0xE (0x2#4 ++ y)
  | .nope3 smp p y => packCell smp p 0xE (0x3#4 ++ y)
  | .vibwave smp p y => packCell smp p 0xE (0x4#4 ++ y)
  | .nope5 smp p y => packCell smp p 0xE (0x5#4 ++ y)
  | .loop smp p y => packCell smp p 0xE (0x6#4 ++ y)
  | .nope7 smp p y => packCell smp p 0xE (0x7#4 ++ y)
  | .nope8 smp p y => packCell smp p 0xE (0x8#4 ++ y)
  | .retrig smp p y => packCell smp p 0xE (0x9#4 ++ y)
  | .finevolup smp p y => packCell smp p 0xE (0xA#4 ++ y)
  | .finevoldn smp p y => packCell smp p 0xE (0xB#4 ++ y)
  | .cut smp p y => packCell smp p 0xE (0xC#4 ++ y)
  | .delaynote smp p y => packCell smp p 0xE (0xD#4 ++ y)
  | .delaypat smp p y => packCell smp p 0xE (0xE#4 ++ y)
  | .nopef smp p y => packCell smp p 0xE (0xF#4 ++ y)

/-- The four bytes of an instruction in ascending address order (00_scope.md R9). -/
def encodeBytes (i : Instr) : List Byte :=
  let c := encode i
  [c.extractLsb' 24 8, c.extractLsb' 16 8, c.extractLsb' 8 8, c.extractLsb' 0 8]

/-- A row of the opcode map: an opcode is selected when `(cell AND mask) == match` (30_encoding.md R133). -/
structure OpcodeRow where
  opcode : Opcode
  pattern : CellWord
  mask : CellWord
  deriving DecidableEq, Repr

/-- The rows of 30_encoding.md R123 and R124, as spec/opcode_table.json lists them. -/
def opcodeRows : List OpcodeRow :=
  [⟨.arp, 0x000, 0xF00⟩, ⟨.portup, 0x100, 0xF00⟩, ⟨.portdn, 0x200, 0xF00⟩, ⟨.toneporta, 0x300, 0xF00⟩,
    ⟨.vibrato, 0x400, 0xF00⟩, ⟨.tonevol, 0x500, 0xF00⟩, ⟨.vibvol, 0x600, 0xF00⟩, ⟨.nop7, 0x700, 0xF00⟩,
    ⟨.nop8, 0x800, 0xF00⟩, ⟨.offset, 0x900, 0xF00⟩, ⟨.volslide, 0xA00, 0xF00⟩, ⟨.jump, 0xB00, 0xF00⟩,
    ⟨.setvol, 0xC00, 0xF00⟩, ⟨.brk, 0xD00, 0xF00⟩, ⟨.speed, 0xF00, 0xF00⟩]
  ++
  [⟨.filter, 0xE00, 0xFF0⟩, ⟨.fineup, 0xE10, 0xFF0⟩, ⟨.finedn, 0xE20, 0xFF0⟩, ⟨.nope3, 0xE30, 0xFF0⟩,
    ⟨.vibwave, 0xE40, 0xFF0⟩, ⟨.nope5, 0xE50, 0xFF0⟩, ⟨.loop, 0xE60, 0xFF0⟩, ⟨.nope7, 0xE70, 0xFF0⟩,
    ⟨.nope8, 0xE80, 0xFF0⟩, ⟨.retrig, 0xE90, 0xFF0⟩, ⟨.finevolup, 0xEA0, 0xFF0⟩, ⟨.finevoldn, 0xEB0, 0xFF0⟩,
    ⟨.cut, 0xEC0, 0xFF0⟩, ⟨.delaynote, 0xED0, 0xFF0⟩, ⟨.delaypat, 0xEE0, 0xFF0⟩, ⟨.nopef, 0xEF0, 0xFF0⟩]

/-- The rows a cell selects (30_encoding.md R133). -/
def selectedRows (w : CellWord) : List OpcodeRow :=
  opcodeRows.filter fun r => w &&& r.mask == r.pattern

end Sys2Proof
end

