-- ==== Sys2Proof/Machine/HostOp.lean ====
section
/-! DEFINITION. The host's transactions (45_host_operations.md R300), the names READ_STATE takes (R308) and the answers.
These are the model's inputs and outputs; Machine/State.lean holds them as lists. -/

namespace Sys2Proof.Machine

/-- The pending-modulation latch `vmod` (10_state.md R38). -/
inductive Vmod where
  /-- `NONE` -/
  | none
  /-- `ADD(r)`, from vibrato -/
  | add (r : Binary64)
  /-- `SET(r)`, from arpeggio -/
  | set (r : Binary64)
  deriving DecidableEq, Repr

/-- The fields of a voice record (10_state.md R22 to R38). -/
inductive VoiceReg where
  | sample | period | voiceperiod | volume | command | data | samplepos | samplespeed | chflags | noteon
  | slidespeed | slideto | slidetospeed | note | arpeggio | vibratodepth | vibratospeed | vibratopos
  | vibratowave | vmod
  deriving DecidableEq, Repr

/-- The fields of a sample descriptor (10_state.md R65). -/
inductive SampleReg where
  | name | length | finetune | volume | loopStart | loopLength | pcmBase
  deriving DecidableEq, Repr

/-- The names READ_STATE takes: every register of 10_state.md (log 16). -/
inductive Reg where
  | voice (c : Fin 28) (r : VoiceReg)
  | playing | paused | repeatFlag | filter | tick | row | songPosition | offset | flags | speed | bpm | breakRow
  | patternJump | patternDelay | patternWait | sampleRate | loopRow | loopCount | endOfSong
  | vu (c : Fin 28) | acc (k : Fin 2) | och | valid | err
  | title | titleLen | signature | nch | songLength | repeatPosition | patternTable (i : Fin 128) | patternCount
  | smp (k : Fin 31) (r : SampleReg)
  deriving DecidableEq, Repr

/-- The value of a register as READ_STATE returns it. -/
inductive Value where
  | nat (n : Nat)
  | int (n : Int)
  | bit (b : Bool)
  | real (r : Binary64)
  | modulation (v : Vmod)
  | bytes (bs : List Byte)
  deriving DecidableEq, Repr

/-- A host transaction (45_host_operations.md R300). -/
inductive HostOp where
  /-- LOAD_IMAGE(bytes) (R301) -/
  | loadImage (bytes : List Byte)
  /-- PARSE() (R302) -/
  | parse
  /-- INITIALIZE() (R303) -/
  | init
  /-- SET_RATE(r) (R304) -/
  | setRate (r : BitVec 32)
  /-- SET_PLAYING(b) (R305) -/
  | setPlaying (b : Bool)
  /-- SET_PAUSED(b) (R305) -/
  | setPaused (b : Bool)
  /-- SET_REPEAT(b) (R305) -/
  | setRepeat (b : Bool)
  /-- FRAME() (R306) -/
  | frame
  /-- FILL(n) (R307) -/
  | fill (n : Nat)
  /-- READ_STATE(name) (R308) -/
  | readState (r : Reg)
  /-- CLEAR_VU() (R308) -/
  | clearVu
  deriving DecidableEq, Repr

/-- What the host is answered. -/
inductive Reply where
  /-- the transaction is done and has no result -/
  | done
  /-- PARSE's result (R302) -/
  | parsed (ok : Bool)
  /-- one output frame, (left, right) (R306) -/
  | frame (left right : Binary64)
  /-- READ_STATE's result (R308) -/
  | value (v : Value)
  /-- the transaction is refused and changed nothing: SET_RATE(0) (R304, R310) -/
  | refusedTransaction
  deriving DecidableEq, Repr

end Sys2Proof.Machine
end

