-- ==== Sys2Proof/Config.lean ====
section
/-! DEFINITION. What an implementation fixes and the spec leaves open: opaque constants, with no value that a proof can see. -/

namespace Sys2Proof

/-- The real operations that can have a NaN result. -/
inductive FloatOp where
  | add | mul | div
  deriving DecidableEq, Repr

/-- FREE VALUE (log 8; 20_memory.md R104, 93_implementation_defined.md U1): the contents of the "random" vibrato table,
each entry counted from -127, so that `(vibrandRaw p : Int) - 127` is any integer in -127..127. -/
opaque Config.vibrandRaw : Fin 64 → Fin 255

/-- FREE VALUE (log 5): the sign and the 51 payload bits of the quiet NaN that an operation on these operands gives. IEEE 754
leaves them open and 00_scope.md R17 adds nothing. -/
opaque Config.nanBits : FloatOp → Binary64 → Binary64 → BitVec 52

/-- FREE VALUE (log 7): what `maxr` answers when its operands are unordered (one of them is a NaN). -/
opaque Config.maxUnordered : Binary64 → Binary64 → Binary64

end Sys2Proof
end

