-- ==== Sys2Proof/Machine/Binary64.lean ====
section
/-! DEFINITION. The real arithmetic of the machine (00_scope.md R11, R17): IEEE 754 binary64 on bit patterns, round to
nearest, ties to even, subnormals kept, no flags and no traps. Every finite number is a whole number of units of 2^-1074,
so an operation computes its exact rational result in units and rounds it once. -/

namespace Sys2Proof.Machine

/-- The sign bit. -/
def fNeg (a : Binary64) : Bool := a.msb

/-- The biased exponent field. -/
def fExp (a : Binary64) : Nat := a.toNat / 2 ^ 52 % 2048

/-- The fraction field. -/
def fFrac (a : Binary64) : Nat := a.toNat % 2 ^ 52

/-- `2 ^ n`, in two factors whose exponents stay small, so that Lean evaluates it on numerals. -/
def pow2 (n : Nat) : Nat := 2 ^ (n % 256) * (2 ^ 256) ^ (n / 256)

/-- The binary logarithm of a number below `2 ^ 2 ^ k`, one bit of the answer at a time. -/
def log2Below : Nat → Nat → Nat
  | 0, _ => 0
  | k + 1, n => if pow2 (2 ^ k) ≤ n then 2 ^ k + log2Below k (n / pow2 (2 ^ k)) else log2Below k n

/-- The position of the highest set bit, for numbers below `2 ^ 4096`: every quotient the operations round is below
`2 ^ 3173`. -/
def highBit (n : Nat) : Nat := log2Below 12 n

/-- A NaN. -/
def fIsNaN (a : Binary64) : Bool := fExp a == 2047 && fFrac a != 0

/-- An infinity. -/
def fIsInf (a : Binary64) : Bool := fExp a == 2047 && fFrac a == 0

/-- The magnitude of a finite number in units of 2^-1074. On an infinity it is 2^2098, above every finite magnitude. -/
def fMag (a : Binary64) : Nat :=
  if fExp a = 0 then fFrac a else (2 ^ 52 + fFrac a) * pow2 (fExp a - 1)

/-- The value of a finite number in units of 2^-1074; an infinity compares beyond every finite number. -/
def fUnits (a : Binary64) : Int := if fNeg a then -(fMag a : Int) else fMag a

/-- The integer nearest to `p / d`, ties to even. -/
def roundEven (p d : Nat) : Nat :=
  let q := p / d
  let r := p % d
  if 2 * r < d then q else if d < 2 * r then q + 1 else q + q % 2

/-- The bits of infinity. -/
def fInfBits : Nat := 0x7FF0000000000000

/-- The magnitude bits of the binary64 number nearest to `p / q` units: 53 significant bits, or fewer at the subnormal end.
The exponent field and the carry out of the significand add up in place, and what is too large becomes infinity. -/
def roundMagnitude (p q : Nat) : Nat :=
  let k := highBit (p / q) - 52
  min (k * 2 ^ 52 + roundEven p (q * pow2 k)) fInfBits

/-- The one rounding of 00_scope.md R11: the binary64 number nearest to plus or minus `p / q` units. -/
def fRound (neg : Bool) (p q : Nat) : Binary64 :=
  BitVec.ofNat 64 ((if neg then 2 ^ 63 else 0) + roundMagnitude p q)

/-- A quiet NaN whose sign and payload are open (log 5). -/
def fNaN (op : FloatOp) (a b : Binary64) : Binary64 :=
  let f := Config.nanBits op a b
  (f.extractLsb' 51 1) ++ 0xFFF#12 ++ (f.extractLsb' 0 51)

/-- The signed infinity or zero with the given magnitude bits. -/
def fSigned (neg : Bool) (bits : Nat) : Binary64 :=
  BitVec.ofNat 64 ((if neg then 2 ^ 63 else 0) + bits)

/-- `a + b`. An exact zero sum is +0 unless both operands are negative zeros. -/
def fAdd (a b : Binary64) : Binary64 :=
  if fIsNaN a || fIsNaN b then fNaN .add a b
  else if fIsInf a then (if fIsInf b && fNeg a != fNeg b then fNaN .add a b else a)
  else if fIsInf b then b
  else
    let x := fUnits a + fUnits b
    if x = 0 then fSigned (fNeg a && fNeg b) 0 else fRound (decide (x < 0)) x.natAbs 1

/-- `-a`. -/
def fOpp (a : Binary64) : Binary64 := a ^^^ 0x8000000000000000

/-- `a - b`. -/
def fSub (a b : Binary64) : Binary64 := fAdd a (fOpp b)

/-- `a * b`. -/
def fMul (a b : Binary64) : Binary64 :=
  let neg := fNeg a != fNeg b
  if fIsNaN a || fIsNaN b then fNaN .mul a b
  else if fIsInf a then (if fMag b = 0 then fNaN .mul a b else fSigned neg fInfBits)
  else if fIsInf b then (if fMag a = 0 then fNaN .mul a b else fSigned neg fInfBits)
  else fRound neg (fMag a * fMag b) (pow2 1074)

/-- `a / b`. -/
def fDiv (a b : Binary64) : Binary64 :=
  let neg := fNeg a != fNeg b
  if fIsNaN a || fIsNaN b then fNaN .div a b
  else if fIsInf a then (if fIsInf b then fNaN .div a b else fSigned neg fInfBits)
  else if fIsInf b then fSigned neg 0
  else if fMag b = 0 then (if fMag a = 0 then fNaN .div a b else fSigned neg fInfBits)
  else fRound neg (fMag a * pow2 1074) (fMag b)

/-- `a < b`, false when unordered. -/
def fLt (a b : Binary64) : Bool := !fIsNaN a && !fIsNaN b && decide (fUnits a < fUnits b)

/-- `a <= b`, false when unordered. -/
def fLe (a b : Binary64) : Bool := !fIsNaN a && !fIsNaN b && decide (fUnits a ≤ fUnits b)

/-- `a == b`: the two zeros are equal, a NaN equals nothing. -/
def fEq (a b : Binary64) : Bool := !fIsNaN a && !fIsNaN b && decide (fUnits a = fUnits b)

/-- `abs(a)`. -/
def fAbs (a : Binary64) : Binary64 := a &&& 0x7FFFFFFFFFFFFFFF

/-- `maxr(a, b)`. Of two equal operands the bits differ only when they are zeros of both signs, and then the answer is +0
(log 7); on unordered operands the answer is open (log 7). -/
def fMax (a b : Binary64) : Binary64 :=
  if fLt a b then b else if fLt b a then a else if fEq a b then a &&& b else Config.maxUnordered a b

/-- `floor(a)`, the largest integer not above a finite `a`; an infinity and a NaN have none (log 6). -/
def fFloor (a : Binary64) : Option Int :=
  if fExp a = 2047 then none else some (fUnits a / pow2 1074)

/-- `real(n)` of an integer (exact below 2^53; the sign of zero is plus). -/
def fOfInt (n : Int) : Binary64 := fRound (decide (n < 0)) (n.natAbs * pow2 1074) 1

/-- `real(n)` of a natural number. -/
def fOfNat (n : Nat) : Binary64 := fRound false (n * pow2 1074) 1

end Sys2Proof.Machine
end

