-- ==== Sys2Proof/Machine/Tables.lean ====
section
/-! DEFINITION. The read-only tables and the constants of the hardware (20_memory.md R100 to R104, 00_scope.md R8). -/

namespace Sys2Proof.Machine

/-- The entries of `PERIODTAB`, note 0 first (20_memory.md R100). -/
def periodTable : List Nat :=
  [856, 808, 762, 720, 678, 640, 604, 570, 538, 508, 480, 453]
  ++ [428, 404, 381, 360, 339, 320, 302, 285, 269, 254, 240, 226]
  ++ [214, 202, 190, 180, 170, 160, 151, 143, 135, 127, 120, 113]

/-- `PERIODTAB[k]`, k = 0..35 (20_memory.md R100); no rule reads past 35. -/
def periodTab (k : Nat) : Nat := periodTable.getD k 0

/-- The entries of `FT` as binary64 bits (20_memory.md R101). -/
def finetuneTable : List Binary64 :=
  [0x3FEE3437E7101344, 0x3FEE6C3FCC4E16CF, 0x3FEEA4AFA2A490DA, 0x3FEEDD882AE58C0E,
    0x3FEF16CA2748C5B4, 0x3FEF50765B6E4540, 0x3FEF8A8D8C60F8B0, 0x3FEFC510809955BF]
  ++ [0x3FF0000000000000, 0x3FF01DAE69F839EE, 0x3FF03B93E39DDB43, 0x3FF059B0D3158574,
    0x3FF078059F4155D1, 0x3FF09692AFC24500, 0x3FF0B5586CF9890F, 0x3FF0D4574009FA16]

/-- `FT[finetune + 8]` of a signed finetune nibble (20_memory.md R101). -/
def finetuneMultiplier (finetune : BitVec 4) : Binary64 := finetuneTable.getD (finetune.toInt + 8).toNat 0

/-- The first half of the sine waveform, p = 0..31 (20_memory.md R102). -/
def sineHalf : List Int :=
  [0, 12, 25, 37, 49, 60, 71, 81, 90, 98, 106, 112, 117, 122, 125, 126]
  ++ [127, 126, 125, 122, 117, 112, 106, 98, 90, 81, 71, 60, 49, 37, 25, 12]

/-- `VIBTAB[w][p]` (20_memory.md R102, R103, R104): sine, descending ramp, square, and the open random table (log 8). -/
def vibTab (w : BitVec 2) (p : BitVec 6) : Int :=
  if w = 0 then (if p.toNat < 32 then sineHalf.getD p.toNat 0 else -(sineHalf.getD (p.toNat - 32) 0))
  else if w = 1 then 127 - 4 * (p.toNat : Int)
  else if w = 2 then (if p.toNat < 32 then 127 else -127)
  else ((Config.vibrandRaw p.toFin : Nat) : Int) - 127

/-- The Paula clock constant 7093789.2 (00_scope.md R8). -/
def paula : Binary64 := 0x415B0F874CCCCCCD

/-- 0.0 -/
def realZero : Binary64 := 0x0000000000000000

/-- 2.0 -/
def realTwo : Binary64 := 0x4000000000000000

/-- 63.0, the vibrato divisor (00_scope.md R8). -/
def realVibratoDivisor : Binary64 := 0x404F800000000000

/-- 64.0, the volume divisor (00_scope.md R8). -/
def realVolumeDivisor : Binary64 := 0x4050000000000000

/-- 128.0, the PCM divisor (20_memory.md R95). -/
def realPcmDivisor : Binary64 := 0x4060000000000000

/-- 1.0 -/
def realOne : Binary64 := 0x3FF0000000000000

/-- The PCM value of a byte (20_memory.md R95). -/
def pcm (b : Byte) : Binary64 :=
  if b.toNat < 128 then fDiv (fOfNat b.toNat) realPcmDivisor
  else fSub (fDiv (fOfNat (b.toNat - 128)) realPcmDivisor) realOne

end Sys2Proof.Machine
end

