-- ==== Sys2Proof/Machine/State.lean ====
section
/-! DEFINITION. The machine's state as plain data (10_state.md R20), and the state after power-on (R73,
70_reset_and_hazards.md R350 to R352). -/

namespace Sys2Proof.Machine

/-- The reasons the machine stops with a fault: there are none. Nothing in the machine faults (60_exceptions.md R324;
FormatError is a result code, R321), so no step can answer a fault (safe). -/
inductive Fault
  deriving DecidableEq, Repr

/-- The reasons a step has no meaning. -/
inductive Refusal where
  /-- Raised by an arm of `exec` whose instruction has no meaning yet; no arm raises it. Safe: the machine stops. -/
  | notModelled (mnemonic : String)
  /-- Raised by LOAD_IMAGE with 2^32 bytes or more, an operand the spec excludes (45_host_operations.md R301, log 12).
  Safe: the machine stops. -/
  | imageTooLong
  deriving DecidableEq, Repr

/-- The module image: (address, byte) pairs, addresses strictly rising, no byte 0x00, which is what an unlisted address
reads as (20_memory.md R80, R82). -/
abbrev Memory := List Host.Cell

/-- One voice record (10_state.md R21 to R38). -/
structure Voice where
  /-- index of the sample the voice plays (R22) -/
  sample : Fin 31
  /-- base period (R23) -/
  period : BitVec 12
  /-- period plus live modulation (R24) -/
  voiceperiod : Binary64
  /-- volume, 0 to 255 (R25) -/
  volume : BitVec 8
  /-- latched command (R26) -/
  command : BitVec 4
  /-- latched data byte (R26) -/
  data : BitVec 8
  /-- fractional read position (R27) -/
  samplepos : Binary64
  /-- frames advanced per output frame (R28) -/
  samplespeed : Binary64
  /-- dirty bits: 0 RECALC_SPEED, 1 RECALC_NOTE (R29) -/
  chflags : BitVec 2
  /-- the voice sounds (R30) -/
  noteon : Bool
  /-- speed of commands 1 and 2 (R31) -/
  slidespeed : BitVec 8
  /-- slide target of commands 3 and 5 (R32) -/
  slideto : BitVec 12
  /-- speed of commands 3 and 5 (R32) -/
  slidetospeed : BitVec 8
  /-- note index (R33) -/
  note : BitVec 6
  /-- arpeggio interval (R34) -/
  arpeggio : BitVec 8
  /-- vibrato depth (R35) -/
  vibratodepth : BitVec 4
  /-- vibrato speed (R35) -/
  vibratospeed : BitVec 4
  /-- vibrato phase (R36) -/
  vibratopos : BitVec 6
  /-- vibrato waveform (R37) -/
  vibratowave : BitVec 2
  /-- pending modulation (R38) -/
  vmod : Vmod
  deriving DecidableEq, Repr

/-- The player registers (10_state.md R40 to R57), the program counter (R45) among them. -/
structure Player where
  /-- R41 -/
  playing : Bool
  /-- R41 -/
  paused : Bool
  /-- `repeat`, R41 -/
  repeatFlag : Bool
  /-- R42 -/
  filter : Bool
  /-- R43 -/
  tick : BitVec 6
  /-- R44 -/
  row : BitVec 8
  /-- R45 -/
  songPosition : BitVec 9
  /-- R46 -/
  offset : BitVec 32
  /-- R47 -/
  flags : BitVec 8
  /-- R48 -/
  speed : BitVec 6
  /-- R49 -/
  bpm : BitVec 8
  /-- R50 -/
  breakRow : BitVec 8
  /-- R50 -/
  patternJump : BitVec 8
  /-- R51 -/
  patternDelay : BitVec 4
  /-- R51 -/
  patternWait : BitVec 4
  /-- R52 -/
  sampleRate : BitVec 32
  /-- R53 -/
  loopRow : BitVec 6
  /-- R53 -/
  loopCount : BitVec 4
  /-- R54 -/
  endOfSong : Bool
  /-- R55 -/
  vu : Vector Binary64 28
  /-- `acc[0]`, the left accumulator, R56 -/
  acc0 : Binary64
  /-- `acc[1]`, the right accumulator, R56 -/
  acc1 : Binary64
  /-- R56 -/
  och : BitVec 1
  /-- R57 -/
  valid : Bool
  /-- `ERR`, R57 -/
  err : BitVec 2
  deriving DecidableEq, Repr

/-- One sample descriptor (10_state.md R65). -/
structure Sample where
  name : Vector Byte 22
  length : BitVec 17
  finetune : BitVec 4
  volume : BitVec 8
  loopStart : BitVec 17
  loopLength : BitVec 17
  pcmBase : BitVec 32
  deriving DecidableEq, Repr

/-- The module descriptor registers (10_state.md R60 to R65). -/
structure Module where
  /-- R61 -/
  title : Vector Byte 20
  /-- R61 -/
  titleLen : BitVec 5
  /-- R61 -/
  signature : Vector Byte 4
  /-- R62 -/
  nch : BitVec 5
  /-- R63 -/
  songLength : BitVec 8
  /-- R63 -/
  repeatPosition : BitVec 8
  /-- R64 -/
  patternTable : Vector Byte 128
  /-- R64 -/
  patternCount : BitVec 9
  /-- R65 -/
  smp : Vector Sample 31
  deriving DecidableEq, Repr

/-- The whole state (10_state.md R20), and the model's own four fields (log 1, log 2). -/
structure State where
  /-- the voice register file (R21) -/
  ch : Vector Voice 28
  /-- the player registers (R40) -/
  p : Player
  /-- the module descriptor registers (R60) -/
  m : Module
  /-- the module image memory (20_memory.md R80) -/
  image : Memory
  /-- `MODSIZE`, the image's length in bytes (00_scope.md R7) -/
  modsize : BitVec 32
  /-- the model's own: a FRAME is between two of its channel steps (log 1) -/
  busy : Bool
  /-- the model's own: the loop variable `c` of FRAME (40_sequencer.md R150, log 1) -/
  chan : Fin 28
  /-- the model's own: the host's pending transactions, oldest first (log 2) -/
  host : List HostOp
  /-- the model's own: what the host has been answered, newest first (log 2, log 17) -/
  replies : List Reply
  deriving DecidableEq, Repr

/-- A voice record as INITIALIZE leaves it (70_reset_and_hazards.md R352). 0x406AC00000000000 is 214.0. -/
def Voice.reset : Voice where
  sample := 0
  period := 214
  voiceperiod := 0x406AC00000000000
  volume := 64
  command := 0
  data := 0
  samplepos := realZero
  samplespeed := realZero
  chflags := 0
  noteon := false
  slidespeed := 0
  slideto := 214
  slidetospeed := 0
  note := 24
  arpeggio := 0
  vibratodepth := 0
  vibratospeed := 0
  vibratopos := 0
  vibratowave := 0
  vmod := .none

/-- The player registers at power-on (70_reset_and_hazards.md R350, R351). -/
def Player.reset : Player where
  playing := false
  paused := false
  repeatFlag := false
  filter := false
  tick := 0
  row := 0
  songPosition := 0
  offset := 0
  flags := 0x03
  speed := 6
  bpm := 125
  breakRow := 0
  patternJump := 0
  patternDelay := 0
  patternWait := 0
  sampleRate := 44100
  loopRow := 0
  loopCount := 0
  endOfSong := false
  vu := Vector.replicate 28 realZero
  acc0 := realZero
  acc1 := realZero
  och := 0
  valid := false
  err := 0

/-- A cleared sample descriptor (20_memory.md R97). -/
def Sample.cleared : Sample where
  name := Vector.replicate 22 0
  length := 0
  finetune := 0
  volume := 0
  loopStart := 0
  loopLength := 0
  pcmBase := 0

/-- The cleared descriptor registers: all 0, `NCH` 4 (20_memory.md R97). -/
def Module.cleared : Module where
  title := Vector.replicate 20 0
  titleLen := 0
  signature := Vector.replicate 4 0
  nch := 4
  songLength := 0
  repeatPosition := 0
  patternTable := Vector.replicate 128 0
  patternCount := 0
  smp := Vector.replicate 31 Sample.cleared

/-- The machine after power-on (70_reset_and_hazards.md R350). DESIGN CHOICE (log 9), unsafe: the spec gives the image and
the descriptors no value; the model takes the empty image and the cleared descriptors. -/
def State.reset : State where
  ch := Vector.replicate 28 Voice.reset
  p := Player.reset
  m := Module.cleared
  image := []
  modsize := 0
  busy := false
  chan := 0
  host := []
  replies := []

end Sys2Proof.Machine
end

