-- ==== Sys2Proof/Machine/Flags.lean ====
section
/-! DEFINITION. The bits of `P.flags` (10_state.md R47) and of `chflags` (R29), each read and written in one place. -/

namespace Sys2Proof.Machine

/-- `NEWTICK`, bit 0. -/
def newTickBit : BitVec 8 := 0x01

/-- `NEWROW`, bit 1. -/
def newRowBit : BitVec 8 := 0x02

/-- `NEWPOS`, bit 2. -/
def newPosBit : BitVec 8 := 0x04

/-- `BREAK`, bit 4. -/
def breakBit : BitVec 8 := 0x10

/-- `LOOP`, bit 6. -/
def loopBit : BitVec 8 := 0x40

/-- The marks that outlive a frame, BREAK and LOOP (40_sequencer.md R163). -/
def pendingMask : BitVec 8 := 0x50

/-- `P.flags & b != 0`. -/
def Player.flag (p : Player) (b : BitVec 8) : Bool := p.flags &&& b != 0

/-- `P.flags <- P.flags | b`. -/
def Player.setFlag (p : Player) (b : BitVec 8) : Player := { p with flags := p.flags ||| b }

/-- `P.flags <- P.flags & ~b`. -/
def Player.clearFlag (p : Player) (b : BitVec 8) : Player := { p with flags := p.flags &&& ~~~b }

/-- The frame is a new-tick frame (40_sequencer.md R165). -/
def State.newTick (s : State) : Bool := s.p.flag newTickBit

/-- The frame is a new-row frame (44_mixer.md R260). -/
def State.newRow (s : State) : Bool := s.p.flag newRowBit

/-- `RECALC_SPEED`, bit 0 of chflags. -/
def recalcSpeed : BitVec 2 := 0b01

/-- `RECALC_NOTE`, bit 1 of chflags. -/
def recalcNote : BitVec 2 := 0b10

/-- `chflags <- chflags | b`. -/
def Voice.mark (v : Voice) (b : BitVec 2) : Voice := { v with chflags := v.chflags ||| b }

/-- `chflags & b != 0`. -/
def Voice.marked (v : Voice) (b : BitVec 2) : Bool := v.chflags &&& b != 0

end Sys2Proof.Machine
end

