-- ==== Sys2Proof/Machine/Operands.lean ====
section
/-! DEFINITION. Operand forms and the clamps (00_scope.md R9, R10; 30_encoding.md R122). The nibbles and the cell's fields
are in Decode.lean. -/

namespace Sys2Proof.Machine

/-- `clampP(p) = max(113, min(p, 856))`, stored in the 12-bit period (00_scope.md R10). -/
def clampP (p : Int) : BitVec 12 := BitVec.ofInt 12 (max 113 (min p 856))

/-- `clampV(v) = max(0, min(v, 64))`, stored in the 8-bit volume (00_scope.md R10). -/
def clampV (v : Int) : BitVec 8 := BitVec.ofInt 8 (max 0 (min v 64))

/-- The break row of D, two decimal digits on binary nibbles: `x*10 + y` (30_encoding.md R122). -/
def decimalRow (x y : BitVec 4) : BitVec 8 := BitVec.ofNat 8 (x.toNat * 10 + y.toNat)

/-- The data byte of a two-nibble opcode. -/
def nibbles (x y : BitVec 4) : BitVec 8 := x ++ y

/-- The sample offset of 9 in sample frames: `real(data * 256)` (42_volume_sample_effects.md R211). -/
def sampleOffset (d : BitVec 8) : Binary64 := fOfNat (d.toNat * 256)

/-- The word a latched command and data stand for on a frame that loads no row: no note, no sample number (log 11). -/
def latchedWord (v : Voice) : CellWord := packCell 0 0 v.command v.data

/-- The index of the sample a sample number names: 1 to 31 (44_mixer.md R265; 30_encoding.md R129). -/
def sampleIndex (smp : BitVec 8) : Option (Fin 31) :=
  if h : 1 ≤ smp.toNat ∧ smp.toNat ≤ 31 then some ⟨smp.toNat - 1, by omega⟩ else none

end Sys2Proof.Machine
end

