-- ==== Sys2Proof/Machine/Ops.lean ====
section
/-! DEFINITION. The named operations over memory and registers, the note-on, the row load, the choice of a handler, and
the one exception (60_exceptions.md R321). -/

namespace Sys2Proof.Machine

/-! ### Memory -/

/-- What an unlisted address reads as (20_memory.md R82). -/
def unlistedByte : Byte := 0x00

/-- The byte a memory lists at an address, or what an unlisted address reads as. -/
def memLookup : Memory → Nat → Byte
  | [], _ => unlistedByte
  | (x, v) :: rest, a => if x = a then v else memLookup rest a

/-- A memory with one byte written, in canonical form again. Only the host's placing of bytes writes: the engine never
does (00_scope.md R12, `MemWrite`). -/
def memWrite : Memory → Nat → Byte → Memory
  | [], a, b => if b = unlistedByte then [] else [(a, b)]
  | (x, v) :: rest, a, b =>
    if a < x then (if b = unlistedByte then (x, v) :: rest else (a, b) :: (x, v) :: rest)
    else if a = x then (if b = unlistedByte then rest else (a, b) :: rest)
    else (x, v) :: memWrite rest a b

/-- The memory whose bytes from address `base` on are the given ones. -/
def memOfBytes (base : Nat) : List Byte → Memory
  | [] => []
  | b :: bs => if b = unlistedByte then memOfBytes (base + 1) bs else (base, b) :: memOfBytes (base + 1) bs

/-- The canonical form: every address is at least `low`, addresses strictly rise, no entry is what an unlisted address
reads as. -/
def memWfFrom : Nat → Memory → Bool
  | _, [] => true
  | low, (x, v) :: rest => decide (low ≤ x) && v != unlistedByte && memWfFrom (x + 1) rest

/-- A memory is in canonical form. -/
def Memory.wf (m : Memory) : Bool := memWfFrom 0 m

/-- `MemRead(a, 1)`: a byte at an address at or beyond `MODSIZE` reads as 0x00 (20_memory.md R82). -/
def State.memRead1 (s : State) (a : Nat) : Byte :=
  if a < s.modsize.toNat then memLookup s.image a else 0x00

/-- `MemRead(a, 2)`, big-endian (20_memory.md R83). -/
def State.memRead2 (s : State) (a : Nat) : BitVec 16 := s.memRead1 a ++ s.memRead1 (a + 1)

/-- `MemRead(a, 4)`, big-endian (20_memory.md R83). -/
def State.memRead4 (s : State) (a : Nat) : CellWord :=
  s.memRead1 a ++ s.memRead1 (a + 1) ++ s.memRead1 (a + 2) ++ s.memRead1 (a + 3)

/-- `cellAddr(p, r, c)` (20_memory.md R93). -/
def cellAddr (nch p r c : Nat) : Nat := 1084 + p * (256 * nch) + r * (4 * nch) + c * 4

/-- The pattern at the song position: `M.patternTable[P.songPosition mod 128]` (44_mixer.md R262). -/
def State.patternNow (s : State) : Byte :=
  s.m.patternTable[s.p.songPosition.toNat % 128]'(Nat.mod_lt _ (by decide))

/-- The address of the current channel's cell in the current row (44_mixer.md R284). -/
def State.cellAddrNow (s : State) : Nat :=
  cellAddr s.m.nch.toNat s.patternNow.toNat s.p.row.toNat s.chan

/-! ### Registers -/

/-- The current channel's voice record, `ch[c]`. -/
def State.voice (s : State) : Voice := s.ch[s.chan]

/-- Writes the current channel's voice record. -/
def State.setVoice (s : State) (v : Voice) : State := { s with ch := s.ch.set s.chan v }

/-- A change of the current channel's voice record. -/
def State.onVoice (f : Voice → Voice) (s : State) : State := s.setVoice (f s.voice)

/-- Writes the player registers. -/
def State.setPlayer (s : State) (p : Player) : State := { s with p := p }

/-- A change of the player registers. -/
def State.onPlayer (f : Player → Player) (s : State) : State := s.setPlayer (f s.p)

/-- Answers the host (log 2). -/
def State.answer (s : State) (r : Reply) : State := { s with replies := r :: s.replies }

/-! ### Row load and note-on -/

/-- The note part of NOTEON (44_mixer.md R264). -/
def notePart (period : BitVec 12) (v : Voice) : Voice :=
  if period = 0 then v
  else
    let struck :=
      if v.command ≠ 3 ∧ v.command ≠ 5 then
        { v with
          period := period
          samplepos := realZero
          chflags := v.chflags ||| recalcSpeed ||| recalcNote
          noteon := true }
      else v
    { struck with slideto := period }

/-- The sample part of NOTEON (44_mixer.md R265). -/
def samplePart (m : Module) (smp : BitVec 8) (v : Voice) : Voice :=
  match sampleIndex smp with
  | some k => { v with sample := k, volume := m.smp[k].volume }
  | none => v

/-- `NOTEON(c, cell)`: the note part, then the sample part (44_mixer.md R263). -/
def noteOn (m : Module) (smp : BitVec 8) (period : BitVec 12) (v : Voice) : Voice :=
  samplePart m smp (notePart period v)

/-- The latch of a row load: `command` and `data` (44_mixer.md R262). -/
def latch (cmd : BitVec 4) (data : BitVec 8) (v : Voice) : Voice := { v with command := cmd, data := data }

/-- ROWLOAD of a cell whose note-on is not deferred (44_mixer.md R262), on a new-row frame; else nothing. -/
def loadCell (cmd : BitVec 4) (data : BitVec 8) (smp : BitVec 8) (period : BitVec 12) (s : State) : State :=
  if s.newRow then s.onVoice fun v => noteOn s.m smp period (latch cmd data v) else s

/-- ROWLOAD of a DELAYNOTE cell: the latch only (44_mixer.md R266), on a new-row frame; else nothing. -/
def loadDeferred (cmd : BitVec 4) (data : BitVec 8) (s : State) : State :=
  if s.newRow then s.onVoice (latch cmd data) else s

/-! ### Handler selection -/

/-- Runs the tick-0 or the tick>0 handler on a new-tick frame, none on another (40_sequencer.md R165). -/
def dispatch (t0 t1 : State → State) (s : State) : State :=
  if s.newTick then (if s.p.tick = 0 then t0 s else t1 s) else s

/-- The empty handler, "none" in the tables of 30_encoding.md R123 and R124. -/
def noHandler (s : State) : State := s

/-- What a cell does in its channel's step: the row load on a new-row frame, then one handler on a new-tick frame (log 11). -/
def runCell (cmd : BitVec 4) (data : BitVec 8) (smp : BitVec 8) (period : BitVec 12) (t0 t1 : State → State)
    (s : State) : Host.Outcome State Fault Refusal :=
  .next (dispatch t0 t1 (loadCell cmd data smp period s))

/-- What a DELAYNOTE cell does in its channel's step: as `runCell`, the note-on left to the handler (44_mixer.md R266). -/
def runDeferred (cmd : BitVec 4) (data : BitVec 8) (t0 t1 : State → State) (s : State) :
    Host.Outcome State Fault Refusal :=
  .next (dispatch t0 t1 (loadDeferred cmd data s))

/-! ### The one exception -/

/-- `raise FormatError`: `valid <- 0`, `ERR <- 1` (60_exceptions.md R321). Nothing is saved, no mode changes and control
goes nowhere (R327). -/
def raiseFormatError (s : State) : State := s.onPlayer fun p => { p with valid := false, err := 1 }

/-- There is no return from the exception (60_exceptions.md R328): `ERR` is cleared by LOAD_IMAGE and by a successful
PARSE, both through this operation. -/
def clearError (valid : Bool) (s : State) : State := s.onPlayer fun p => { p with valid := valid, err := 0 }

end Sys2Proof.Machine
end

