-- ==== Sys2Proof/Machine/Flow.lean ====
section
/-! DEFINITION. The control-flow, timing and system effects B, D, F, E0, E6, EE and the no-op slots (43_flow_effects.md). -/

namespace Sys2Proof.Machine

/-! ### Tick-0 handlers -/

/-- B (R230). -/
def requestJump (d : BitVec 8) (p : Player) : Player :=
  { p with breakRow := 0, patternJump := d, flags := p.flags ||| breakBit }

/-- D (R231): the position target is set only when no break is pending. -/
def requestBreak (x y : BitVec 4) (p : Player) : Player :=
  { p with
    breakRow := decimalRow x y
    patternJump := if p.flag breakBit then p.patternJump else BitVec.ofNat 8 (p.songPosition.toNat + 1)
    flags := p.flags ||| breakBit }

/-- F (R235). -/
def setSpeed (d : BitVec 8) (p : Player) : Player :=
  if 32 < d.toNat then { p with bpm := d }
  else if d ≠ 0 then { p with speed := BitVec.ofNat 6 d.toNat }
  else p

/-- E0 (R232): honoured only with 4 channels; the low bit of y clear switches the filter on. -/
def setFilter (nch : BitVec 5) (y : BitVec 4) (p : Player) : Player :=
  if nch = 4 then { p with filter := !y.getLsbD 0 } else p

/-- The loop counter after `LOOP y`, y not 0 (R233). -/
def nextLoopCount (count y : BitVec 4) : BitVec 4 := if count ≠ 0 then count - 1 else y

/-- E6 (R233). -/
def patternLoop (y : BitVec 4) (p : Player) : Player :=
  if y = 0 then { p with loopRow := BitVec.ofNat 6 p.row.toNat }
  else
    { p with
      loopCount := nextLoopCount p.loopCount y
      flags := if nextLoopCount p.loopCount y ≠ 0 then p.flags ||| loopBit else p.flags }

/-- EE (R234): a delay already requested stays. -/
def delayPattern (y : BitVec 4) (p : Player) : Player :=
  if p.patternDelay = 0 then { p with patternDelay := y, patternWait := 0 } else p

/-! ### The instructions -/

/-- `JUMP data` (R230). -/
def execJump (smp : BitVec 8) (period : BitVec 12) (data : BitVec 8) (s : State) : Host.Outcome State Fault Refusal :=
  runCell 0xB data smp period (State.onPlayer (requestJump data)) noHandler s

/-- `BREAK x,y` (R231). -/
def execBrk (smp : BitVec 8) (period : BitVec 12) (x y : BitVec 4) (s : State) : Host.Outcome State Fault Refusal :=
  runCell 0xD (nibbles x y) smp period (State.onPlayer (requestBreak x y)) noHandler s

/-- `SPEED data` (R235). -/
def execSpeed (smp : BitVec 8) (period : BitVec 12) (data : BitVec 8) (s : State) : Host.Outcome State Fault Refusal :=
  runCell 0xF data smp period (State.onPlayer (setSpeed data)) noHandler s

/-- `FILTER y` (R232). -/
def execFilter (smp : BitVec 8) (period : BitVec 12) (y : BitVec 4) (s : State) : Host.Outcome State Fault Refusal :=
  runCell 0xE (nibbles 0x0 y) smp period (fun s => s.onPlayer (setFilter s.m.nch y)) noHandler s

/-- `LOOP y` (R233). -/
def execLoop (smp : BitVec 8) (period : BitVec 12) (y : BitVec 4) (s : State) : Host.Outcome State Fault Refusal :=
  runCell 0xE (nibbles 0x6 y) smp period (State.onPlayer (patternLoop y)) noHandler s

/-- `DELAYPAT y` (R234). -/
def execDelaypat (smp : BitVec 8) (period : BitVec 12) (y : BitVec 4) (s : State) : Host.Outcome State Fault Refusal :=
  runCell 0xE (nibbles 0xE y) smp period (State.onPlayer (delayPattern y)) noHandler s

/-! ### The no-op slots: both handlers empty, the row load as for any cell (30_encoding.md R127) -/

/-- `NOP7 data` (R250). -/
def execNop7 (smp : BitVec 8) (period : BitVec 12) (data : BitVec 8) (s : State) : Host.Outcome State Fault Refusal :=
  runCell 0x7 data smp period noHandler noHandler s

/-- `NOP8 data` (R251). -/
def execNop8 (smp : BitVec 8) (period : BitVec 12) (data : BitVec 8) (s : State) : Host.Outcome State Fault Refusal :=
  runCell 0x8 data smp period noHandler noHandler s

/-- `NOPE3 y` (R252). -/
def execNope3 (smp : BitVec 8) (period : BitVec 12) (y : BitVec 4) (s : State) : Host.Outcome State Fault Refusal :=
  runCell 0xE (nibbles 0x3 y) smp period noHandler noHandler s

/-- `NOPE5 y` (R253). -/
def execNope5 (smp : BitVec 8) (period : BitVec 12) (y : BitVec 4) (s : State) : Host.Outcome State Fault Refusal :=
  runCell 0xE (nibbles 0x5 y) smp period noHandler noHandler s

/-- `NOPE7 y` (R254). -/
def execNope7 (smp : BitVec 8) (period : BitVec 12) (y : BitVec 4) (s : State) : Host.Outcome State Fault Refusal :=
  runCell 0xE (nibbles 0x7 y) smp period noHandler noHandler s

/-- `NOPE8 y` (R255). -/
def execNope8 (smp : BitVec 8) (period : BitVec 12) (y : BitVec 4) (s : State) : Host.Outcome State Fault Refusal :=
  runCell 0xE (nibbles 0x8 y) smp period noHandler noHandler s

/-- `NOPEF y` (R256). -/
def execNopef (smp : BitVec 8) (period : BitVec 12) (y : BitVec 4) (s : State) : Host.Outcome State Fault Refusal :=
  runCell 0xE (nibbles 0xF y) smp period noHandler noHandler s

end Sys2Proof.Machine
end

