-- ==== Sys2Proof/Machine/Volume.lean ====
section
/-! DEFINITION. The volume and sample effects 9, A, C, E9 to ED (42_volume_sample_effects.md). -/

namespace Sys2Proof.Machine

/-- `VOLSLIDE_STEP` (R210). -/
def volumeSlide (x y : BitVec 4) (v : Voice) : Voice :=
  if x ≠ 0 ∧ y = 0 then { v with volume := BitVec.ofNat 8 (min (v.volume.toNat + x.toNat) 64) }
  else if x = 0 ∧ y ≠ 0 then { v with volume := BitVec.ofInt 8 (max ((v.volume.toNat : Int) - y.toNat) 0) }
  else v

/-- The volume becomes the clamp of itself plus `delta` (R215, R216). -/
def fineVolume (delta : Int) (v : Voice) : Voice := { v with volume := clampV ((v.volume.toNat : Int) + delta) }

/-- Both handlers of E9 (R214). -/
def retrigger (y : BitVec 4) (s : State) : State :=
  if y ≠ 0 ∧ s.p.tick.toNat % y.toNat = 0 then s.onVoice fun v => { v with samplepos := realZero } else s

/-- Both handlers of EC (R217). -/
def cutNote (y : BitVec 4) (s : State) : State :=
  if s.p.tick.toNat = y.toNat then s.onVoice fun v => { v with volume := 0 } else s

/-- Both handlers of ED: the deferred note-on, from the cell fetched again (R218). -/
def delayedNote (y : BitVec 4) (s : State) : State :=
  if s.p.tick.toNat = y.toNat then
    let cell := s.memRead4 s.cellAddrNow
    s.onVoice (noteOn s.m (cellSmp cell) (cellPeriod cell))
  else s

/-! ### The instructions -/

/-- `OFFSET data` (R211). -/
def execOffset (smp : BitVec 8) (period : BitVec 12) (data : BitVec 8) (s : State) : Host.Outcome State Fault Refusal :=
  runCell 0x9 data smp period (State.onVoice fun v => { v with samplepos := sampleOffset data }) noHandler s

/-- `VOLSLIDE x,y` (R212). -/
def execVolslide (smp : BitVec 8) (period : BitVec 12) (x y : BitVec 4) (s : State) : Host.Outcome State Fault Refusal :=
  runCell 0xA (nibbles x y) smp period noHandler (State.onVoice (volumeSlide x y)) s

/-- `SETVOL data` (R213). -/
def execSetvol (smp : BitVec 8) (period : BitVec 12) (data : BitVec 8) (s : State) : Host.Outcome State Fault Refusal :=
  runCell 0xC data smp period (State.onVoice fun v => { v with volume := data }) noHandler s

/-- `RETRIG y` (R214). -/
def execRetrig (smp : BitVec 8) (period : BitVec 12) (y : BitVec 4) (s : State) : Host.Outcome State Fault Refusal :=
  runCell 0xE (nibbles 0x9 y) smp period (retrigger y) (retrigger y) s

/-- `FINEVOLUP y` (R215). -/
def execFinevolup (smp : BitVec 8) (period : BitVec 12) (y : BitVec 4) (s : State) : Host.Outcome State Fault Refusal :=
  runCell 0xE (nibbles 0xA y) smp period (State.onVoice (fineVolume y.toNat)) noHandler s

/-- `FINEVOLDN y` (R216). -/
def execFinevoldn (smp : BitVec 8) (period : BitVec 12) (y : BitVec 4) (s : State) : Host.Outcome State Fault Refusal :=
  runCell 0xE (nibbles 0xB y) smp period (State.onVoice (fineVolume (-(y.toNat : Int)))) noHandler s

/-- `CUT y` (R217). -/
def execCut (smp : BitVec 8) (period : BitVec 12) (y : BitVec 4) (s : State) : Host.Outcome State Fault Refusal :=
  runCell 0xE (nibbles 0xC y) smp period (cutNote y) (cutNote y) s

/-- `DELAYNOTE y` (R218). The row load latches the command only (44_mixer.md R266): the cell's own sample number and
period are read again from the image when the tick matches. -/
def execDelaynote (_smp : BitVec 8) (_period : BitVec 12) (y : BitVec 4) (s : State) : Host.Outcome State Fault Refusal :=
  runDeferred 0xE (nibbles 0xD y) (delayedNote y) (delayedNote y) s

end Sys2Proof.Machine
end

