-- ==== Sys2Proof/Machine/Pitch.lean ====
section
/-! DEFINITION. The pitch effects 0 to 6, E1, E2, E4 (41_pitch_effects.md). -/

namespace Sys2Proof.Machine

/-! ### Shared procedures -/

/-- `VIBRATO_STEP` (R180). -/
def vibratoStep (v : Voice) : Voice :=
  let w := vibTab v.vibratowave v.vibratopos
  { v with
    vmod := .add (fDiv (fOfInt ((v.vibratodepth.toNat : Int) * w)) realVibratoDivisor)
    chflags := v.chflags ||| recalcSpeed
    vibratopos := BitVec.ofNat 6 ((v.vibratopos.toNat + v.vibratospeed.toNat) % 64) }

/-- The period one `STEP_TO_TARGET` gives (R181). -/
def stepPeriod (period target : BitVec 12) (speed : BitVec 8) : BitVec 12 :=
  if period.toNat < target.toNat then
    BitVec.ofInt 12 (min ((period.toNat : Int) + speed.toNat) target.toNat)
  else if target.toNat < period.toNat then
    BitVec.ofInt 12 (max ((period.toNat : Int) - speed.toNat) target.toNat)
  else period

/-- `STEP_TO_TARGET` (R181). -/
def stepToTarget (v : Voice) : Voice :=
  { v with
    period := stepPeriod v.period v.slideto v.slidetospeed
    chflags := v.chflags ||| recalcSpeed ||| recalcNote }

/-- A clamped period slide with both dirty flags (R183, R184, R189, R190). -/
def slidePeriod (delta : Int) (v : Voice) : Voice :=
  { v with
    period := clampP ((v.period.toNat : Int) + delta)
    chflags := v.chflags ||| recalcSpeed ||| recalcNote }

/-- The tick-0 handler of commands 1 and 2: a zero data byte keeps the speed (R183). -/
def storeSlideSpeed (d : BitVec 8) (v : Voice) : Voice := if d ≠ 0 then { v with slidespeed := d } else v

/-- The tick-0 handler of command 3 (R185). -/
def storeTargetSpeed (d : BitVec 8) (v : Voice) : Voice := if d ≠ 0 then { v with slidetospeed := d } else v

/-- The note offset the arpeggio takes at a tick (R182). -/
def arpeggioOffset (interval : BitVec 8) (tick : Nat) : Nat :=
  if tick % 3 = 0 then 0 else if tick % 3 = 1 then (dataX interval).toNat else (dataY interval).toNat

/-- The tick>0 handler of command 0 (R182). -/
def arpeggioStep (tick : Nat) (v : Voice) : Voice :=
  if v.arpeggio ≠ 0 then
    let idx := v.note.toNat + arpeggioOffset v.arpeggio tick
    { v with
      vmod := if idx ≤ 35 then .set (fOfNat (periodTab idx)) else v.vmod
      chflags := v.chflags ||| recalcSpeed }
  else v

/-- The two nibbles command 4 stores at tick 0, each only when it is not 0 (R186). -/
def storeVibrato (x y : BitVec 4) (v : Voice) : Voice :=
  { v with
    vibratodepth := if y ≠ 0 then y else v.vibratodepth
    vibratospeed := if x ≠ 0 then x else v.vibratospeed }

/-! ### The instructions -/

/-- `ARP x,y` (R182). -/
def execArp (smp : BitVec 8) (period : BitVec 12) (x y : BitVec 4) (s : State) : Host.Outcome State Fault Refusal :=
  runCell 0x0 (nibbles x y) smp period
    (State.onVoice fun v => { v with arpeggio := nibbles x y })
    (fun s => s.onVoice (arpeggioStep s.p.tick.toNat)) s

/-- `PORTUP data` (R183). -/
def execPortup (smp : BitVec 8) (period : BitVec 12) (data : BitVec 8) (s : State) : Host.Outcome State Fault Refusal :=
  runCell 0x1 data smp period
    (State.onVoice (storeSlideSpeed data))
    (State.onVoice fun v => slidePeriod (-(v.slidespeed.toNat : Int)) v) s

/-- `PORTDN data` (R184). -/
def execPortdn (smp : BitVec 8) (period : BitVec 12) (data : BitVec 8) (s : State) : Host.Outcome State Fault Refusal :=
  runCell 0x2 data smp period
    (State.onVoice (storeSlideSpeed data))
    (State.onVoice fun v => slidePeriod v.slidespeed.toNat v) s

/-- `TONEPORTA data` (R185). -/
def execToneporta (smp : BitVec 8) (period : BitVec 12) (data : BitVec 8) (s : State) : Host.Outcome State Fault Refusal :=
  runCell 0x3 data smp period (State.onVoice (storeTargetSpeed data)) (State.onVoice stepToTarget) s

/-- `VIBRATO x,y` (R186). -/
def execVibrato (smp : BitVec 8) (period : BitVec 12) (x y : BitVec 4) (s : State) : Host.Outcome State Fault Refusal :=
  runCell 0x4 (nibbles x y) smp period
    (State.onVoice fun v => vibratoStep (storeVibrato x y v))
    (State.onVoice vibratoStep) s

/-- `TONEVOL x,y` (R187). -/
def execTonevol (smp : BitVec 8) (period : BitVec 12) (x y : BitVec 4) (s : State) : Host.Outcome State Fault Refusal :=
  runCell 0x5 (nibbles x y) smp period noHandler
    (State.onVoice fun v => volumeSlide x y (stepToTarget v)) s

/-- `VIBVOL x,y` (R188). -/
def execVibvol (smp : BitVec 8) (period : BitVec 12) (x y : BitVec 4) (s : State) : Host.Outcome State Fault Refusal :=
  runCell 0x6 (nibbles x y) smp period noHandler
    (State.onVoice fun v => volumeSlide x y (vibratoStep v)) s

/-- `FINEUP y` (R189). -/
def execFineup (smp : BitVec 8) (period : BitVec 12) (y : BitVec 4) (s : State) : Host.Outcome State Fault Refusal :=
  runCell 0xE (nibbles 0x1 y) smp period (State.onVoice (slidePeriod (-(y.toNat : Int)))) noHandler s

/-- `FINEDN y` (R190). -/
def execFinedn (smp : BitVec 8) (period : BitVec 12) (y : BitVec 4) (s : State) : Host.Outcome State Fault Refusal :=
  runCell 0xE (nibbles 0x2 y) smp period (State.onVoice (slidePeriod y.toNat)) noHandler s

/-- `VIBWAVE y` (R191). -/
def execVibwave (smp : BitVec 8) (period : BitVec 12) (y : BitVec 4) (s : State) : Host.Outcome State Fault Refusal :=
  runCell 0xE (nibbles 0x4 y) smp period
    (State.onVoice fun v => { v with vibratowave := y.extractLsb' 0 2 }) noHandler s

end Sys2Proof.Machine
end

