-- ==== Sys2Proof/Machine/Dispatch.lean ====
section
/-! DEFINITION. The dispatch of an instruction to its meaning, one arm per row of spec/opcode_table.json. -/

namespace Sys2Proof.Machine

def exec (i : Instr) (s : State) : Host.Outcome State Fault Refusal :=
  match i with
  | .arp smp period x y => Sys2Proof.Machine.execArp smp period x y s
  | .portup smp period data => Sys2Proof.Machine.execPortup smp period data s
  | .portdn smp period data => Sys2Proof.Machine.execPortdn smp period data s
  | .toneporta smp period data => Sys2Proof.Machine.execToneporta smp period data s
  | .vibrato smp period x y => Sys2Proof.Machine.execVibrato smp period x y s
  | .tonevol smp period x y => Sys2Proof.Machine.execTonevol smp period x y s
  | .vibvol smp period x y => Sys2Proof.Machine.execVibvol smp period x y s
  | .nop7 smp period data => Sys2Proof.Machine.execNop7 smp period data s
  | .nop8 smp period data => Sys2Proof.Machine.execNop8 smp period data s
  | .offset smp period data => Sys2Proof.Machine.execOffset smp period data s
  | .volslide smp period x y => Sys2Proof.Machine.execVolslide smp period x y s
  | .jump smp period data => Sys2Proof.Machine.execJump smp period data s
  | .setvol smp period data => Sys2Proof.Machine.execSetvol smp period data s
  | .brk smp period x y => Sys2Proof.Machine.execBrk smp period x y s
  | .speed smp period data => Sys2Proof.Machine.execSpeed smp period data s
  | .filter smp period y => Sys2Proof.Machine.execFilter smp period y s
  | .fineup smp period y => Sys2Proof.Machine.execFineup smp period y s
  | .finedn smp period y => Sys2Proof.Machine.execFinedn smp period y s
  | .nope3 smp period y => Sys2Proof.Machine.execNope3 smp period y s
  | .vibwave smp period y => Sys2Proof.Machine.execVibwave smp period y s
  | .nope5 smp period y => Sys2Proof.Machine.execNope5 smp period y s
  | .loop smp period y => Sys2Proof.Machine.execLoop smp period y s
  | .nope7 smp period y => Sys2Proof.Machine.execNope7 smp period y s
  | .nope8 smp period y => Sys2Proof.Machine.execNope8 smp period y s
  | .retrig smp period y => Sys2Proof.Machine.execRetrig smp period y s
  | .finevolup smp period y => Sys2Proof.Machine.execFinevolup smp period y s
  | .finevoldn smp period y => Sys2Proof.Machine.execFinevoldn smp period y s
  | .cut smp period y => Sys2Proof.Machine.execCut smp period y s
  | .delaynote smp period y => Sys2Proof.Machine.execDelaynote smp period y s
  | .delaypat smp period y => Sys2Proof.Machine.execDelaypat smp period y s
  | .nopef smp period y => Sys2Proof.Machine.execNopef smp period y s

end Sys2Proof.Machine
end

