-- ==== Sys2Proof/Machine/Mixer.lean ====
section
/-! DEFINITION. What a channel step does around its cell: the pending modulation cleared before it, and after it the pitch
accumulator and the stereo mixer (44_mixer.md R261, R267 to R281). -/

namespace Sys2Proof.Machine

/-- `ch[c].vmod <- NONE` (R261). -/
def clearModulation (v : Voice) : Voice := { v with vmod := .none }

/-- The value R267 gives `voiceperiod`. -/
def modulatedPeriod (period : BitVec 12) : Vmod → Binary64
  | .none => fOfNat period.toNat
  | .add r => fAdd (fOfNat period.toNat) r
  | .set r => r

/-- Recompute `voiceperiod` (R267). -/
def updateVoiceperiod (v : Voice) : Voice := { v with voiceperiod := modulatedPeriod v.period v.vmod }

/-- The note index of a period: the last k in 0..35 whose table period is not below it, or none (R268). A host applies it to
a cell's period field for note names (10_state.md R66). -/
def noteOf (period : BitVec 12) : Option Nat :=
  (List.range 36).foldl (fun best k => if period.toNat ≤ periodTab k then some k else best) none

/-- Recompute the note index when `RECALC_NOTE` is set; unchanged when no index qualifies (R268). -/
def updateNote (v : Voice) : Voice :=
  if v.marked recalcNote then { v with note := BitVec.ofNat 6 ((noteOf v.period).getD v.note.toNat) } else v

/-- The speed formula, four operations left to right (R270). -/
def speedOf (voiceperiod : Binary64) (finetune : BitVec 4) (sampleRate : BitVec 32) : Binary64 :=
  fDiv (fMul (fDiv paula (fMul voiceperiod realTwo)) (finetuneMultiplier finetune)) (fOfNat sampleRate.toNat)

/-- Recompute the playback speed when it is due (R269). -/
def updateSpeed (m : Module) (p : Player) (v : Voice) : Voice :=
  if (v.marked recalcSpeed || p.flag newRowBit) && !fEq v.voiceperiod realZero then
    { v with samplespeed := speedOf v.voiceperiod m.smp[v.sample].finetune p.sampleRate }
  else v

/-- The three recomputations, in order (R260). -/
def updatePitch (m : Module) (p : Player) (v : Voice) : Voice := updateSpeed m p (updateNote (updateVoiceperiod v))

/-- `och xor (c & 1)` (R271). -/
def nextOch (och : BitVec 1) (c : Nat) : BitVec 1 := och ^^^ BitVec.ofNat 1 c

/-- Cursor advance (R273). -/
def advanceCursor (v : Voice) : Voice := { v with samplepos := fAdd v.samplepos v.samplespeed }

/-- The index the fetch uses, when the guard passes (R274). -/
def fetchIndex (samplepos : Binary64) (length : BitVec 17) : Option Nat :=
  match fFloor samplepos with
  | some i => if 0 ≤ i ∧ i < length.toNat then some i.toNat else none
  | none => none

/-- The fetched PCM value, 0.0 when the guard fails (R274, R275). -/
def fetchPcm (s : State) (v : Voice) : Binary64 :=
  match fetchIndex v.samplepos s.m.smp[v.sample].length with
  | some i => pcm (s.memRead1 (s.m.smp[v.sample].pcmBase.toNat + i))
  | none => realZero

/-- Scaling by `volume/64` (R276). -/
def scaleVolume (x : Binary64) (volume : BitVec 8) : Binary64 :=
  fDiv (fMul x (fOfNat volume.toNat)) realVolumeDivisor

/-- `acc[och] <- acc[och] + f` (R277). -/
def accumulate (f : Binary64) (p : Player) : Player :=
  if p.och = 0 then { p with acc0 := fAdd p.acc0 f } else { p with acc1 := fAdd p.acc1 f }

/-- VU level (R278). -/
def updateVu (c : Fin 28) (f : Binary64) (p : Player) : Player :=
  { p with vu := p.vu.set c (fMax p.vu[c] (fAbs f)) }

/-- A sample is looped unless its loop is 0/0 (R279). -/
def Sample.looped (d : Sample) : Bool := d.loopStart != 0 || d.loopLength != 0

/-- Loop wrap or stop (R279, R280). -/
def wrapOrStop (d : Sample) (v : Voice) : Voice :=
  if d.looped then
    if fLe (fOfNat (d.loopStart.toNat + d.loopLength.toNat)) v.samplepos then
      { v with samplepos := fSub v.samplepos (fOfNat d.loopLength.toNat) }
    else v
  else if fLe (fOfNat d.length.toNat) v.samplepos then { v with noteon := false }
  else v

/-- `ch[c].chflags <- 0` (R281). -/
def clearChflags (v : Voice) : Voice := { v with chflags := 0 }

/-- What a sounding voice adds to its accumulator: the fetch after the cursor's advance, scaled (R273 to R276). -/
def voiceOutput (s : State) (v : Voice) : Binary64 := scaleVolume (fetchPcm s v) v.volume

/-- The mix step of a sounding voice (R273 to R280). -/
def mixSounding (s : State) (v : Voice) : State :=
  let moved := advanceCursor v
  let f := voiceOutput s moved
  (s.setPlayer (updateVu s.chan f (accumulate f s.p))).setVoice
    (clearChflags (wrapOrStop s.m.smp[moved.sample] moved))

/-- The mix step of a voice that is off: only the VU register is touched, with 0.0 (R272, R278). -/
def mixSilent (s : State) (v : Voice) : State :=
  (s.setPlayer (updateVu s.chan realZero s.p)).setVoice (clearChflags v)

/-- The channel step after its handler: pitch, accumulator selection, mix, clear (R267 to R281). -/
def channelTail (s : State) : State :=
  let v := updatePitch s.m s.p s.voice
  let t := s.onPlayer fun p => { p with och := nextOch p.och s.chan }
  if v.noteon then mixSounding t v else mixSilent t v

end Sys2Proof.Machine
end

