-- ==== Sys2Proof/Machine/Fetch.lean ====
section
/-! DEFINITION. The instruction fetch (44_mixer.md R262, R284; 30_encoding.md R125). -/

namespace Sys2Proof.Machine

/-- The cell the current channel executes: on a new-row frame the cell of the current row in the image (44_mixer.md R262);
on another frame the latched command and data (30_encoding.md R125), which carry no note and no sample number (log 11). -/
def fetchCell (s : State) : CellWord :=
  if s.newRow then s.memRead4 s.cellAddrNow else latchedWord s.voice

/-- `ch[c].vmod <- NONE`, the first act of a channel step (44_mixer.md R261). -/
def channelHead (s : State) : State := s.onVoice clearModulation

end Sys2Proof.Machine
end

