-- ==== Sys2Proof/Machine/Parse.lean ====
section
/-! DEFINITION. PARSE: the decode of the image into the descriptor registers (20_memory.md R87 to R97). -/

namespace Sys2Proof.Machine

/-- A vector from the values of its places. -/
def vectorOf {α : Type} (n : Nat) (f : Nat → α) : Vector α n := ⟨⟨(List.range n).map f⟩, by simp⟩

/-- The title's length: the bytes before the first zero, at most 20 (R87). -/
def titleLength (byteAt : Nat → Byte) : Nat := ((List.range 20).takeWhile fun i => byteAt i != 0).length

/-- Loop normalisation, the RangeCorrection, on the doubled values (R89). -/
def normaliseLoop (length loopStart loopLength : Nat) : Nat × Nat :=
  let once := if loopLength = 2 then (0, 0) else (loopStart, loopLength)
  if length < once.1 then (0, 0) else once

/-- The start of sample header k (R86). -/
def headerAddr (k : Nat) : Nat := 20 + k * 30

/-- The length in bytes that header k gives (R88). -/
def State.headerLength (s : State) (k : Nat) : Nat := 2 * (s.memRead2 (headerAddr k + 22)).toNat

/-- The normalised loop of header k, (loopStart, loopLength) (R88, R89). -/
def State.headerLoop (s : State) (k : Nat) : Nat × Nat :=
  normaliseLoop (s.headerLength k) (2 * (s.memRead2 (headerAddr k + 26)).toNat)
    (2 * (s.memRead2 (headerAddr k + 28)).toNat)

/-- The PCM base of sample k, from that of sample 0 (R94). -/
def State.pcmBaseFrom (s : State) (base : Nat) : Nat → Nat
  | 0 => base
  | k + 1 => s.pcmBaseFrom base k + s.headerLength k

/-- Sample descriptor k (R88, R89, R94). -/
def State.parseSample (s : State) (base k : Nat) : Sample where
  name := vectorOf 22 fun j => s.memRead1 (headerAddr k + j)
  length := BitVec.ofNat 17 (s.headerLength k)
  finetune := dataY (s.memRead1 (headerAddr k + 24))
  volume := s.memRead1 (headerAddr k + 25)
  loopStart := BitVec.ofNat 17 (s.headerLoop k).1
  loopLength := BitVec.ofNat 17 (s.headerLoop k).2
  pcmBase := BitVec.ofNat 32 (s.pcmBaseFrom base k)

/-- One more than the largest of the 128 pattern-table bytes (R91). -/
def State.parsePatternCount (s : State) : Nat :=
  1 + (List.range 128).foldl (fun most i => max most (s.memRead1 (952 + i)).toNat) 0

/-- The restart byte, 127 meaning none (R90). -/
def State.parseRepeatPosition (s : State) : Byte := if s.memRead1 951 = 127 then 0 else s.memRead1 951

/-- The four signature bytes as one big-endian word (R92). -/
def State.signatureWord (s : State) : BitVec 32 := s.memRead4 1080

/-- The channel count a signature selects (R92). -/
def channelsOf (signature : BitVec 32) : Option (BitVec 5) :=
  if signature = 0x4D2E4B2E then some 4 -- M.K.
  else if signature = 0x4D214B21 then some 4 -- M!K!
  else if signature = 0x3443484E then some 4 -- 4CHN
  else if signature = 0x464C5434 then some 4 -- FLT4
  else if signature = 0x3643484E then some 6 -- 6CHN
  else if signature = 0x3843484E then some 8 -- 8CHN
  else if signature = 0x464C5438 then some 8 -- FLT8
  else if signature = 0x32384348 then some 28 -- 28CH
  else none

/-- The descriptor registers after the clear and the signature's read (R97). -/
def State.clearedModule (s : State) : Module :=
  { Module.cleared with signature := vectorOf 4 fun i => s.memRead1 (1080 + i) }

/-- The descriptor registers a successful PARSE leaves (R87 to R94). The title's places past its length keep the cleared 0
(log 15). -/
def State.parseModule (s : State) (nch : BitVec 5) : Module where
  title := vectorOf 20 fun i => if i < titleLength s.memRead1 then s.memRead1 i else 0
  titleLen := BitVec.ofNat 5 (titleLength s.memRead1)
  signature := vectorOf 4 fun i => s.memRead1 (1080 + i)
  nch := nch
  songLength := s.memRead1 950
  repeatPosition := s.parseRepeatPosition
  patternTable := vectorOf 128 fun i => s.memRead1 (952 + i)
  patternCount := BitVec.ofNat 9 s.parsePatternCount
  smp := vectorOf 31 (s.parseSample (1084 + 256 * nch.toNat * s.parsePatternCount))

/-- The filter flag the look-ahead gives: the last `E0y` of row 0 of the first pattern, honoured only with 4 channels (R96). -/
def State.parseFilter (s : State) (nch : BitVec 5) : Bool :=
  let p := (s.memRead1 952).toNat
  let found := (List.range nch.toNat).foldl
    (fun f c =>
      let w := s.memRead4 (cellAddr nch.toNat p 0 c)
      if cellCmd w = 0xE ∧ dataX (cellData w) = 0 then !w.getLsbD 0 else f)
    false
  if nch = 4 then found else false

/-- `P.VU[0..27] <- 0.0`. -/
def clearVu (p : Player) : Player := { p with vu := Vector.replicate 28 realZero }

/-- PARSE's effect (R97; 45_host_operations.md R302). -/
def parse (s : State) : State :=
  match channelsOf s.signatureWord with
  | none => raiseFormatError { s with m := s.clearedModule }
  | some nch =>
    clearError true
      { s with
        m := s.parseModule nch
        p := clearVu { s.p with filter := s.parseFilter nch } }

end Sys2Proof.Machine
end

