-- ==== Sys2Proof/Machine/Sequencer.lean ====
section
/-! DEFINITION. ADVANCE, the sequencer (40_sequencer.md R153 to R162). -/

namespace Sys2Proof.Machine

/-- Samples per tick, four truncating integer operations in this order (R153). -/
def samplesPerTick (sampleRate bpm : Nat) : Nat := sampleRate * 60 / bpm / 4 / 6

/-- `spt` of the player's registers (R153). -/
def Player.spt (p : Player) : Nat := samplesPerTick p.sampleRate.toNat p.bpm.toNat

/-- Step 2, the tick accumulator (R154). -/
def advanceTick (p : Player) : Player :=
  let offset := p.offset.toNat + 1
  if p.spt < offset then
    { p with tick := BitVec.ofNat 6 (p.tick.toNat + 1), offset := 0, flags := p.flags ||| newTickBit }
  else { p with offset := BitVec.ofNat 32 offset }

/-- Loop resolution (R158). -/
def resolveLoop (p : Player) : Player :=
  { p with row := BitVec.ofNat 8 p.loopRow.toNat, flags := p.flags &&& ~~~(loopBit ||| breakBit) }

/-- Break or jump resolution (R159). -/
def resolveBreak (p : Player) : Player :=
  { p with
    songPosition := BitVec.ofNat 9 p.patternJump.toNat
    row := p.breakRow
    patternJump := 0
    breakRow := 0
    flags := p.flags &&& ~~~breakBit }

/-- Normal row increment (R160). -/
def incrementRow (p : Player) : Player := { p with row := BitVec.ofNat 8 (p.row.toNat + 1) }

/-- The choice among the three, loop first, then break or jump, then increment (R157). -/
def resolveRow (p : Player) : Player :=
  if p.flag loopBit then resolveLoop p
  else if p.flag breakBit then resolveBreak p
  else incrementRow p

/-- Step 3b, the row change (R157): the tick returns to 0 and the frame is a new-row frame. -/
def changeRow (p : Player) : Player :=
  let r := resolveRow p
  { r with tick := 0, flags := r.flags ||| newRowBit }

/-- A pattern delay still has a tick cycle to run (R156). -/
def Player.delayPending (p : Player) : Bool :=
  decide (p.patternDelay ≠ 0) && decide (p.patternWait.toNat < p.patternDelay.toNat)

/-- Step 3, the row end, and step 3a, the pattern delay (R155, R156). -/
def advanceRow (p : Player) : Player :=
  if p.speed.toNat ≤ p.tick.toNat then
    if p.delayPending then { p with patternWait := BitVec.ofNat 4 (p.patternWait.toNat + 1), tick := 0 }
    else changeRow { p with patternDelay := 0, patternWait := 0 }
  else p

/-- Step 4, row overflow (R161). -/
def advancePosition (p : Player) : Player :=
  if 64 ≤ p.row.toNat then
    { p with
      songPosition := BitVec.ofNat 9 (p.songPosition.toNat + 1)
      row := 0
      flags := p.flags ||| newPosBit }
  else p

/-- Step 5, position overflow (R162). -/
def checkSongEnd (songLength : BitVec 8) (p : Player) : Player :=
  if songLength.toNat ≤ p.songPosition.toNat then
    if p.repeatFlag then { p with songPosition := 0 }
    else
      { p with
        endOfSong := true
        flags := p.flags &&& ~~~(newTickBit ||| newRowBit ||| newPosBit) }
  else p

/-- ADVANCE: steps 1 to 5 once, in order (R153 to R162). -/
def advance (songLength : BitVec 8) (p : Player) : Player :=
  checkSongEnd songLength (advancePosition (advanceRow (advanceTick p)))

end Sys2Proof.Machine
end

