-- ==== Sys2Proof/WellFormed.lean ====
section
/-! DEFINITION. Which terms are well formed. Every field of an instruction is exactly as wide as its field of the cell, so
every instruction is (30_encoding.md R127: no encoding is illegal). The checks that can fail are those on the operands of
the host's transactions (45_host_operations.md R301, R304). -/

namespace Sys2Proof

/-- No instruction is ill formed: all 2^32 cells are legal (30_encoding.md R127) and the constructors' fields have the
cell's own widths (R121). -/
def Instr.wf : Instr → Bool
  | _ => true

namespace Machine

/-- LOAD_IMAGE takes fewer than 2^32 bytes (45_host_operations.md R301). -/
def imageLengthOk (bytes : List Byte) : Bool := decide (bytes.length < 2 ^ 32)

/-- SET_RATE takes a rate of at least 1 (45_host_operations.md R304). -/
def rateOk (r : BitVec 32) : Bool := r != 0

/-- The operands of a transaction are in the spec's ranges (45_host_operations.md R301 to R308). -/
def HostOp.wf : HostOp → Bool
  | .loadImage bytes => imageLengthOk bytes
  | .setRate r => rateOk r
  | .parse => true
  | .init => true
  | .setPlaying _ => true
  | .setPaused _ => true
  | .setRepeat _ => true
  | .frame => true
  | .fill _ => true
  | .readState _ => true
  | .clearVu => true

end Machine

end Sys2Proof
end

