-- ==== Sys2Proof/Machine/HostOps.lean ====
section
/-! DEFINITION. The host's transactions (45_host_operations.md R300 to R310) and the two ends of a FRAME (40_sequencer.md
R150, R151, R163). -/

namespace Sys2Proof.Machine

/-! ### INITIALIZE, the settings, the image -/

/-- INITIALIZE's player registers (70_reset_and_hazards.md R351): the eight it does not write keep their values. -/
def initializePlayer (p : Player) : Player :=
  { Player.reset with
    playing := p.playing
    paused := p.paused
    repeatFlag := p.repeatFlag
    filter := p.filter
    sampleRate := p.sampleRate
    valid := p.valid
    err := p.err }

/-- `INITIALIZE()` (R303). -/
def initializeAll (s : State) : State :=
  { s with ch := Vector.replicate 28 Voice.reset, p := initializePlayer s.p }

/-- `LOAD_IMAGE(bytes)` (R301). -/
def loadImage (bytes : List Byte) (s : State) : State :=
  clearError false { s with image := memOfBytes 0 bytes, modsize := BitVec.ofNat 32 bytes.length }

/-! ### READ_STATE -/

/-- A field of a voice record. -/
def Voice.read (v : Voice) : VoiceReg → Value
  | .sample => .nat v.sample
  | .period => .nat v.period.toNat
  | .voiceperiod => .real v.voiceperiod
  | .volume => .nat v.volume.toNat
  | .command => .nat v.command.toNat
  | .data => .nat v.data.toNat
  | .samplepos => .real v.samplepos
  | .samplespeed => .real v.samplespeed
  | .chflags => .nat v.chflags.toNat
  | .noteon => .bit v.noteon
  | .slidespeed => .nat v.slidespeed.toNat
  | .slideto => .nat v.slideto.toNat
  | .slidetospeed => .nat v.slidetospeed.toNat
  | .note => .nat v.note.toNat
  | .arpeggio => .nat v.arpeggio.toNat
  | .vibratodepth => .nat v.vibratodepth.toNat
  | .vibratospeed => .nat v.vibratospeed.toNat
  | .vibratopos => .nat v.vibratopos.toNat
  | .vibratowave => .nat v.vibratowave.toNat
  | .vmod => .modulation v.vmod

/-- A field of a sample descriptor; `finetune` is signed (10_state.md R65). -/
def Sample.read (d : Sample) : SampleReg → Value
  | .name => .bytes d.name.toList
  | .length => .nat d.length.toNat
  | .finetune => .int d.finetune.toInt
  | .volume => .nat d.volume.toNat
  | .loopStart => .nat d.loopStart.toNat
  | .loopLength => .nat d.loopLength.toNat
  | .pcmBase => .nat d.pcmBase.toNat

/-- The register a READ_STATE names (R308). -/
def State.read (s : State) : Reg → Value
  | .voice c r => s.ch[c].read r
  | .playing => .bit s.p.playing
  | .paused => .bit s.p.paused
  | .repeatFlag => .bit s.p.repeatFlag
  | .filter => .bit s.p.filter
  | .tick => .nat s.p.tick.toNat
  | .row => .nat s.p.row.toNat
  | .songPosition => .nat s.p.songPosition.toNat
  | .offset => .nat s.p.offset.toNat
  | .flags => .nat s.p.flags.toNat
  | .speed => .nat s.p.speed.toNat
  | .bpm => .nat s.p.bpm.toNat
  | .breakRow => .nat s.p.breakRow.toNat
  | .patternJump => .nat s.p.patternJump.toNat
  | .patternDelay => .nat s.p.patternDelay.toNat
  | .patternWait => .nat s.p.patternWait.toNat
  | .sampleRate => .nat s.p.sampleRate.toNat
  | .loopRow => .nat s.p.loopRow.toNat
  | .loopCount => .nat s.p.loopCount.toNat
  | .endOfSong => .bit s.p.endOfSong
  | .vu c => .real s.p.vu[c]
  | .acc k => .real (if k = 0 then s.p.acc0 else s.p.acc1)
  | .och => .nat s.p.och.toNat
  | .valid => .bit s.p.valid
  | .err => .nat s.p.err.toNat
  | .title => .bytes s.m.title.toList
  | .titleLen => .nat s.m.titleLen.toNat
  | .signature => .bytes s.m.signature.toList
  | .nch => .nat s.m.nch.toNat
  | .songLength => .nat s.m.songLength.toNat
  | .repeatPosition => .nat s.m.repeatPosition.toNat
  | .patternTable i => .nat s.m.patternTable[i].toNat
  | .patternCount => .nat s.m.patternCount.toNat
  | .smp k r => s.m.smp[k].read r

/-! ### FRAME's two ends -/

/-- `acc[0] <- 0.0; acc[1] <- 0.0; och <- 0` (40_sequencer.md R150). -/
def clearAccumulators (p : Player) : Player := { p with acc0 := realZero, acc1 := realZero, och := 0 }

/-- The gate is open (40_sequencer.md R151). -/
def Player.gateOpen (p : Player) : Bool := p.valid && p.playing && !p.paused

/-- ADVANCE unless the song has ended (40_sequencer.md R152). -/
def sequence (s : State) : State :=
  if s.p.endOfSong then s else s.onPlayer (advance s.m.songLength)

/-- The end of a FRAME: the one-frame marks are cleared and the accumulators returned (40_sequencer.md R163; 44_mixer.md
R283). -/
def frameEnd (s : State) : State :=
  State.answer
    { s with busy := false, chan := 0, p := { s.p with flags := s.p.flags &&& pendingMask } }
    (.frame s.p.acc0 s.p.acc1)

/-- The channel loop of FRAME is entered at channel 0, if there is one (40_sequencer.md R150). -/
def enterChannels (s : State) : State := if s.m.nch = 0 then frameEnd s else { s with busy := true, chan := 0 }

/-- The channel loop goes on to the next channel, or the frame ends (40_sequencer.md R150). -/
def nextChannel (s : State) : State :=
  if h : s.chan.val + 1 < s.m.nch.toNat ∧ s.chan.val + 1 < 28 then { s with chan := ⟨s.chan.val + 1, h.2⟩ }
  else frameEnd s

/-- The start of a FRAME: accumulators cleared, the gate, ADVANCE, the channel loop (40_sequencer.md R150 to R152). -/
def frameStart (s : State) : State :=
  let t := s.onPlayer clearAccumulators
  if t.p.gateOpen then enterChannels (sequence t) else t.answer (.frame realZero realZero)

/-- What stays of `FILL(n + 1)` when its first frame starts (R307). -/
def refill (n : Nat) (rest : List HostOp) : List HostOp := if n = 0 then rest else .fill n :: rest

/-! ### One transaction -/

/-- A transaction taken from the queue, on the state whose queue no longer holds it (R300 to R308). FRAME and FILL only
start a frame here; its channel steps are the steps that follow (log 1). -/
def hostTurn (op : HostOp) (s : State) : Host.Outcome State Fault Refusal :=
  match op with
  | .loadImage bytes =>
    if imageLengthOk bytes then .next ((loadImage bytes s).answer .done) else .refused .imageTooLong
  | .parse => .next (State.answer (parse s) (.parsed (parse s).p.valid))
  | .init => .next ((initializeAll s).answer .done)
  | .setRate r =>
    if rateOk r then .next ((s.onPlayer fun p => { p with sampleRate := r }).answer .done)
    else .next (s.answer .refusedTransaction)
  | .setPlaying b => .next ((s.onPlayer fun p => { p with playing := b }).answer .done)
  | .setPaused b => .next ((s.onPlayer fun p => { p with paused := b }).answer .done)
  | .setRepeat b => .next ((s.onPlayer fun p => { p with repeatFlag := b }).answer .done)
  | .frame => .next (frameStart s)
  | .fill 0 => .next s
  | .fill (n + 1) => .next (frameStart { s with host := refill n s.host })
  | .readState r => .next (s.answer (.value (s.read r)))
  | .clearVu => .next ((s.onPlayer clearVu).answer .done)

end Sys2Proof.Machine
end

