-- ==== Sys2Proof/Machine/Step.lean ====
section
/-! DEFINITION. One step of the machine (log 1): a channel step of the frame in progress, or else the next transaction of
the host, or else nothing. -/

namespace Sys2Proof.Machine

/-- CHANNEL_STEP of the current channel: the head, the instruction the decoder reads, the tail (44_mixer.md R260). -/
def channelStep (s : State) : Host.Outcome State Fault Refusal :=
  match exec (decodeCell (fetchCell (channelHead s))) (channelHead s) with
  | .next t => .next (channelTail t)
  | .fault r => .fault r
  | .refused r => .refused r

/-- A step inside a FRAME: the current channel's step, then the next channel or the end of the frame (40_sequencer.md
R150). -/
def stepChannel (s : State) : Host.Outcome State Fault Refusal :=
  match channelStep s with
  | .next t => .next (nextChannel t)
  | .fault r => .fault r
  | .refused r => .refused r

/-- A step between frames: the oldest pending transaction; with none pending nothing changes (45_host_operations.md R300,
log 2). -/
def stepHost (s : State) : Host.Outcome State Fault Refusal :=
  match s.host with
  | [] => .next s
  | op :: rest => hostTurn op { s with host := rest }

/-- One step. -/
def step (s : State) : Host.Outcome State Fault Refusal :=
  if s.busy then stepChannel s else stepHost s

/-- A cell placed where the next step fetches (log 3): a frame is in progress at a new-tick and new-row mark, the module
counts as parsed and playing, and the cell's four bytes stand in the image at the address the row load reads. -/
def State.withFetchWord (s : State) (nbits w : Nat) : State :=
  let cell : CellWord := BitVec.ofNat 32 (w % 2 ^ nbits)
  let t : State :=
    { s with
      busy := true
      p := { s.p with
        valid := true
        playing := true
        paused := false
        flags := s.p.flags ||| newTickBit ||| newRowBit } }
  let a := t.cellAddrNow
  { t with
    image := memWrite (memWrite (memWrite (memWrite t.image a (cell.extractLsb' 24 8)) (a + 1) (cell.extractLsb' 16 8))
      (a + 2) (cell.extractLsb' 8 8)) (a + 3) (cell.extractLsb' 0 8)
    modsize := BitVec.ofNat 32 (max t.modsize.toNat (a + 4)) }

end Sys2Proof.Machine
end

