-- ==== Sys2Proof/Safety.lean ====
section
/-! DEFINITION. What a safe run is, in the terms the statements use: the invariant every step keeps (10_state.md R70, R72,
and the ranges of R22 to R57), the whole FRAME procedure of 40_sequencer.md R150, reading an outcome, and the
rounding of the real arithmetic (00_scope.md R17). -/

namespace Sys2Proof.Machine

/-- The largest value `spt` can have: the highest rate at the lowest bpm (00_scope.md R16). -/
def maxSamplesPerTick : Nat := samplesPerTick (2 ^ 32 - 1) 33

/-- The ranges of the player registers between two steps (10_state.md R43 to R57, R70). -/
structure Player.Ok (p : Player) : Prop where
  speed_pos : 1 ≤ p.speed.toNat
  speed_le : p.speed.toNat ≤ 32
  bpm_ge : 33 ≤ p.bpm.toNat
  rate_pos : 1 ≤ p.sampleRate.toNat
  row_lt : p.row.toNat < 64
  tick_lt : p.tick.toNat < p.speed.toNat
  offset_le : p.offset.toNat ≤ maxSamplesPerTick
  breakRow_le : p.breakRow.toNat ≤ 165
  wait_le : p.patternWait.toNat ≤ p.patternDelay.toNat
  reserved_zero : p.flags &&& 0xA8 = 0
  row_marks_tick : p.flag newRowBit = true → p.flag newTickBit = true
  err_le : p.err.toNat ≤ 1
  valid_no_err : p.valid = true → p.err = 0
  position_le : p.songPosition.toNat ≤ 256
  position_playing : p.endOfSong = false → p.songPosition.toNat ≤ 254
  ended_no_marks : p.endOfSong = true → p.flags &&& 0x07 = 0

/-- What the mix and the note-on leave in a voice between two steps (10_state.md R23, R29, R32, R33). -/
structure Voice.Ok (v : Voice) : Prop where
  chflags_zero : v.chflags = 0
  note_le : v.note.toNat ≤ 35
  period_pos : 1 ≤ v.period.toNat
  slideto_pos : 1 ≤ v.slideto.toNat

/-- What the range correction leaves in a sample descriptor (20_memory.md R88, R89). -/
structure Sample.Ok (d : Sample) : Prop where
  loopStart_le : d.loopStart.toNat ≤ d.length.toNat
  loopLength_ne : d.loopLength.toNat ≠ 2
  length_even : d.length.toNat % 2 = 0

/-- The channel counts a signature can select (10_state.md R62). -/
def nchLegal (nch : BitVec 5) : Prop := nch = 4 ∨ nch = 6 ∨ nch = 8 ∨ nch = 28

/-- Every listed address lies below `MODSIZE` (20_memory.md R80). -/
def memBelow (m : Memory) (size : Nat) : Prop := ∀ c ∈ m, c.1 < size

/-- The invariant of the machine between two steps. -/
structure State.Inv (s : State) : Prop where
  player : s.p.Ok
  voices : ∀ c : Fin 28, s.ch[c].Ok
  samples : ∀ k : Fin 31, s.m.smp[k].Ok
  nch : nchLegal s.m.nch
  patterns : s.p.valid = true → ∀ i : Fin 128, s.m.patternTable[i].toNat < s.m.patternCount.toNat
  image_wf : s.image.wf = true
  image_below : memBelow s.image s.modsize.toNat
  busy_gate : s.busy = true → s.p.gateOpen = true
  busy_chan : s.busy = true → s.chan.val < s.m.nch.toNat
  busy_och : s.busy = true → s.p.och = BitVec.ofNat 1 (s.chan.val / 2)
  idle_chan : s.busy = false → s.chan = 0
  idle_marks : s.busy = false → s.p.flags &&& 0x07 = 0 ∨ s.p.flags &&& 0x07 = 0x03

/-- The channels a frame steps, in ascending order (40_sequencer.md R164). -/
def channelsBelow (n : Nat) : List (Fin 28) := (List.finRange 28).filter fun c => decide (c.val < n)

/-- The channel steps of a frame, each to completion before the next (40_sequencer.md R164). -/
def runChannels : List (Fin 28) → State → Host.Outcome State Fault Refusal
  | [], s => .next s
  | c :: cs, s =>
    match channelStep { s with busy := true, chan := c } with
    | .next t => runChannels cs t
    | .fault r => .fault r
    | .refused r => .refused r

/-- The whole FRAME procedure as 40_sequencer.md R150 writes it, in one go. -/
def frameProcedure (s : State) : Host.Outcome State Fault Refusal :=
  let t := s.onPlayer clearAccumulators
  if t.p.gateOpen then
    match runChannels (channelsBelow t.m.nch.toNat) (sequence t) with
    | .next u => .next (frameEnd u)
    | .fault r => .fault r
    | .refused r => .refused r
  else .next (t.answer (.frame realZero realZero))

/-- The state is a next state of the outcome and has the property. -/
def AnswersNext (o : Host.Outcome State Fault Refusal) (P : State → Prop) : Prop := ∃ t, o = .next t ∧ P t

/-- From `s` the machine comes, by some number of steps, to rest at `t` with `rest` still pending. -/
def ComesToRest (s : State) (rest : List HostOp) (t : State) : Prop :=
  (∃ k, Host.Core.run Sys2Proof.core k s = .next t) ∧ t.busy = false ∧ t.host = rest

/-- `r` is what IEEE 754's round to nearest, ties to even, makes of `p / q` units of 2^-1074 (00_scope.md R17). Below the
threshold of overflow it is finite, no finite number is nearer, and when another is as near its last bit is 0; from the
threshold on it is the infinity of `p`'s sign. -/
def RoundsTo (p : Int) (q : Nat) (r : Binary64) : Prop :=
  (p.natAbs < (2 ^ 2098 - 2 ^ 2044) * q →
    fExp r < 2047 ∧ ∀ x : Binary64, fExp x < 2047 →
      (fUnits r * q - p).natAbs ≤ (fUnits x * q - p).natAbs ∧
      ((fUnits x * q - p).natAbs = (fUnits r * q - p).natAbs → fUnits x ≠ fUnits r → r.toNat % 2 = 0)) ∧
  ((2 ^ 2098 - 2 ^ 2044) * q ≤ p.natAbs → fIsInf r = true ∧ fNeg r = decide (p < 0))

end Sys2Proof.Machine
end

