-- ==== Sys2Proof/Certificates/Slice0/Obligations.lean ====
section
/-! DEFINITION. The statements for the provers. Each docstring names the rule of spec/ it formalises, or the model's choice
(the log entry) it rests on. `fUnits a` is the value of a finite real in units of 2^-1074. -/

open Sys2Proof Sys2Proof.Machine

/-! ### Encoding and decoding (30_encoding.md) -/

/-- Decoding the four bytes of an instruction gives it back, whatever follows, for every operand (R120 to R126). -/
def Obligations.EncodedCellDecodesToItsInstruction : Prop :=
  ∀ (i : Instr) (rest : List Byte), i.wf = true → decode (encodeBytes i ++ rest) = .ok (i, rest)

/-- Every four bytes decode, and the instruction they decode to encodes to the same four bytes (R127, R122). -/
def Obligations.DecodedBytesEncodeBack : Prop :=
  ∀ (b0 b1 b2 b3 : Byte) (rest : List Byte),
    ∃ i, decode (b0 :: b1 :: b2 :: b3 :: rest) = .ok (i, rest) ∧ encodeBytes i = [b0, b1, b2, b3]

/-- Every cell is selected by one row of the opcode map and no other, the row of the instruction it decodes to, and the map
has 31 rows (R133). -/
def Obligations.EveryCellSelectsItsOwnRowAlone : Prop :=
  opcodeRows.length = 31 ∧
    ∀ w : CellWord, ∃ r, selectedRows w = [r] ∧ r.opcode = (decodeCell w).opcode

/-- Operand assembly in integers (R122): period, sample number, command and data are these digits of the cell, the break row
is two decimal digits, the sample offset is the data byte times 256. -/
def Obligations.OperandsAreTheBitFieldsOfTheCell : Prop :=
  (∀ w : CellWord,
    (decodeCell w).period.toNat = w.toNat / 2 ^ 16 % 2 ^ 12 ∧
    (decodeCell w).smp.toNat = w.toNat / 2 ^ 28 * 16 + w.toNat / 2 ^ 12 % 16 ∧
    ∃ (c : BitVec 4) (d : BitVec 8),
      c.toNat = w.toNat / 2 ^ 8 % 16 ∧ d.toNat = w.toNat % 256 ∧
      decodeCell w = decodeFields (decodeCell w).smp (decodeCell w).period c d) ∧
  (∀ d : BitVec 8, (dataX d).toNat = d.toNat / 16 ∧ (dataY d).toNat = d.toNat % 16) ∧
  (∀ x y : BitVec 4, (decimalRow x y).toNat = x.toNat * 10 + y.toNat) ∧
  (∀ d : BitVec 8, fUnits (sampleOffset d) = (d.toNat * 256 : Nat) * 2 ^ 1074)

/-- Cells written out from the field table of R121 decode to the instructions they stand for (95_test_vectors.md 2.2). -/
def Obligations.WrittenOutCellsDecode : Prop :=
  decodeTableWord 32 0x01AC1C20 = some (.setvol 1 428 0x20) ∧
  decodeTableWord 32 0x10D62E93 = some (.retrig 18 214 3) ∧
  decodeTableWord 32 0x00000000 = some (.arp 0 0 0 0) ∧
  decodeTableWord 32 0xF0000F06 = some (.speed 240 0 6) ∧
  decodeTableWord 32 0x00000E62 = some (.loop 0 0 2) ∧
  decodeTableWord 32 0x0FFF0000 = some (.arp 0 4095 0 0) ∧
  decodeTableWord 32 0x00D61ED1 = some (.delaynote 1 214 1) ∧
  decodeTableWord 32 0x00000D12 = some (.brk 0 0 1 2)

/-! ### The step -/

/-- A step inside a frame executes the instruction the decoder reads: on a new-row frame from the four bytes at the cell's
address (44_mixer.md R284 a), on another frame from the latched command and data (30_encoding.md R125, log 11). Around it
the step sets the pending modulation of its voice to `NONE` first, and writes nothing else before the instruction (R261),
and runs the mixing tail and the move to the next channel after (R260). -/
def Obligations.StepExecutesTheDecodedInstruction : Prop :=
  ∀ (s : State) (i : Instr), s.busy = true → i.wf = true →
    let cleared := { s with ch := s.ch.set s.chan { s.voice with vmod := .none } }
    (s.newRow = true →
      let a := 1084 + s.patternNow.toNat * (256 * s.m.nch.toNat) + s.p.row.toNat * (4 * s.m.nch.toNat) + s.chan.val * 4
      decode [s.memRead1 a, s.memRead1 (a + 1), s.memRead1 (a + 2), s.memRead1 (a + 3)] = .ok (i, []) →
      AnswersNext (exec i cleared) fun t => step s = .next (nextChannel (channelTail t))) ∧
    (s.newRow = false → decodeCell (packCell 0 0 s.voice.command s.voice.data) = i →
      AnswersNext (exec i cleared) fun t => step s = .next (nextChannel (channelTail t)))

/-- The model's own loader (log 3): a cell placed by `withFetchWord` is what the very next step executes. -/
def Obligations.PlacedWordIsTheNextInstruction : Prop :=
  ∀ (s : State) (w : Nat), s.image.wf = true →
    let u := s.withFetchWord 32 w
    let cleared := { u with ch := u.ch.set u.chan { u.voice with vmod := .none } }
    fetchCell cleared = BitVec.ofNat 32 w ∧
    AnswersNext (exec (decodeCell (BitVec.ofNat 32 w)) cleared) fun t =>
      step u = .next (nextChannel (channelTail t))

/-- After the last channel the frame ends: the one-frame marks go, BREAK and LOOP stay, and the accumulators are returned
(40_sequencer.md R163; 44_mixer.md R283). -/
def Obligations.LastChannelEndsTheFrame : Prop :=
  ∀ s : State,
    (s.m.nch.toNat ≤ s.chan.val + 1 →
      nextChannel s =
        { s with
          busy := false
          chan := 0
          p := { s.p with flags := s.p.flags &&& 0x50 }
          replies := .frame s.p.acc0 s.p.acc1 :: s.replies }) ∧
    (∀ c : Fin 28, c.val = s.chan.val + 1 → c.val < s.m.nch.toNat → nextChannel s = { s with chan := c })

/-- FRAME, run step by step from the queue, is the whole procedure of 40_sequencer.md R150 in one go: the gate, ADVANCE, the
channel steps in ascending order each to completion (R164), the end; and no other transaction is taken in between. The steps
and the queue are the model's (log 1, log 2). -/
def Obligations.FrameStepsAreTheFrameProcedure : Prop :=
  ∀ (s : State) (rest : List HostOp), s.busy = false → s.host = .frame :: rest →
    ∃ t, frameProcedure { s with host := rest } = .next t ∧ ComesToRest s rest t

/-- FILL(n) is n FRAMEs, and FILL(a) then FILL(b) is FILL(a + b) (45_host_operations.md R307): from the same state they come
to rest in the same state, answers included. The queue is the model's (log 2), and so is how a FILL's frames are answered (log 17). -/
def Obligations.FillIsThatManyFrames : Prop :=
  ∀ (s : State) (rest : List HostOp) (a b : Nat), s.busy = false →
    ∃ t,
      ComesToRest { s with host := .fill (a + b) :: rest } rest t ∧
      ComesToRest { s with host := List.replicate (a + b) .frame ++ rest } rest t ∧
      ComesToRest { s with host := .fill a :: .fill b :: rest } rest t

/-- With the gate closed FRAME returns silence and changes nothing but the accumulators and `och` (40_sequencer.md R151). The
queue and the answer are the model's (log 2). -/
def Obligations.ClosedGateFrameOnlyClearsAccumulators : Prop :=
  ∀ (s : State) (rest : List HostOp), s.busy = false → s.host = .frame :: rest →
    s.p.valid = false ∨ s.p.playing = false ∨ s.p.paused = true →
    step s = .next
      { s with
        host := rest
        p := { s.p with acc0 := 0, acc1 := 0, och := 0 }
        replies := .frame 0 0 :: s.replies }

/-- With the gate open FRAME clears the accumulators and runs ADVANCE once, unless the song has ended, and goes on to channel
0 (40_sequencer.md R150, R152). That a FRAME is several steps, the first of them this one, is the model's (log 1). -/
def Obligations.OpenGateFrameAdvancesOnce : Prop :=
  ∀ (s : State) (rest : List HostOp), s.busy = false → s.host = .frame :: rest → s.m.nch ≠ 0 →
    s.p.valid = true → s.p.playing = true → s.p.paused = false →
    let cleared := { s.p with acc0 := 0, acc1 := 0, och := 0 }
    step s = .next
      { s with
        host := rest
        busy := true
        chan := 0
        p := if s.p.endOfSong then cleared else advance s.m.songLength cleared }

/-- Nothing faults (60_exceptions.md R324): every step answers a next state, but for a LOAD_IMAGE operand of 2^32 bytes or
more, which the spec's operand range excludes and the model refuses (log 12). -/
def Obligations.EveryStepAnswersOrRefusesAnOverlongImage : Prop :=
  ∀ s : State,
    (∃ t, step s = .next t) ∨
    (step s = .refused .imageTooLong ∧ s.busy = false ∧
      ∃ bytes rest, s.host = .loadImage bytes :: rest ∧ 2 ^ 32 ≤ bytes.length)

/-! ### Invariants and whole-machine rules -/

/-- The invariant of Safety.lean holds after reset. -/
def Obligations.ResetSatisfiesTheInvariant : Prop := State.reset.Inv

/-- Every step keeps the invariant: the ranges of 10_state.md (row below 64, tick below speed, bpm at least 33, speed 1 to 32,
reserved flag bits zero, dirty flags zero, note index at most 35), the module's normalised loops, and the image's form. -/
def Obligations.StepKeepsTheInvariant : Prop :=
  ∀ s t : State, s.Inv → step s = .next t → t.Inv

/-- The song's reach (00_scope.md R13; 60_exceptions.md R330): an instruction writes only its own channel's voice and the
shared registers `speed`, `bpm`, `breakRow`, `patternJump`, `loopRow`, `loopCount`, `patternDelay`, `patternWait`, `filter`
and the marks BREAK and LOOP, which it can only raise; every other register and every byte of memory is unchanged. -/
def Obligations.InstructionsReachOnlyTheirChannelAndSharedRegisters : Prop :=
  ∀ (i : Instr) (s : State), (∀ t, exec i s = .next t → ∀ a, t.memRead1 a = s.memRead1 a) ∧
    ∃ (v : Voice) (q : Player) (raised : BitVec 8), raised &&& 0xAF = 0 ∧
      exec i s = .next
      { s with
        ch := s.ch.set s.chan v
        p := { s.p with
          speed := q.speed
          bpm := q.bpm
          breakRow := q.breakRow
          patternJump := q.patternJump
          loopRow := q.loopRow
          loopCount := q.loopCount
          patternDelay := q.patternDelay
          patternWait := q.patternWait
          filter := q.filter
          flags := s.p.flags ||| raised } }

/-- A channel's step neither reads nor writes another channel's record (10_state.md R21): the same step with other records in
the other channels gives the same result but for those records. -/
def Obligations.ChannelStepIgnoresOtherChannels : Prop :=
  ∀ (s t : State) (others : Vector Voice 28), others[s.chan] = s.ch[s.chan] → channelStep s = .next t →
    (∀ c : Fin 28, c ≠ s.chan → t.ch[c] = s.ch[c]) ∧
    channelStep { s with ch := others } = .next { t with ch := others.set s.chan t.ch[s.chan] }

/-- Memory is written by LOAD_IMAGE alone (20_memory.md R81, R107): after any other step every byte reads as before. -/
def Obligations.OnlyLoadImageChangesMemory : Prop :=
  ∀ s t : State, step s = .next t →
    (∀ bytes rest, s.busy = false → s.host ≠ .loadImage bytes :: rest) →
    ∀ a, t.memRead1 a = s.memRead1 a

/-- The descriptor registers are written by PARSE alone (10_state.md R20; 00_scope.md R12). -/
def Obligations.OnlyParseWritesDescriptors : Prop :=
  ∀ s t : State, step s = .next t → t.m ≠ s.m → s.busy = false ∧ ∃ rest, s.host = .parse :: rest

/-- `endOfSong` is sticky (10_state.md R54): only INITIALIZE clears it, and while it stays 1 the program counter does not
move (40_sequencer.md R152). -/
def Obligations.SongEndIsStickyAndFreezesTheCounter : Prop :=
  ∀ s t : State, step s = .next t → s.p.endOfSong = true →
    (t.p.endOfSong = false → s.busy = false ∧ ∃ rest, s.host = .init :: rest) ∧
    ((∀ rest, s.host ≠ .init :: rest) →
      t.p.endOfSong = true ∧ t.p.songPosition = s.p.songPosition ∧ t.p.row = s.p.row ∧ t.p.tick = s.p.tick ∧
        t.p.offset = s.p.offset)

/-- `playing`, `paused`, `repeat` and `sampleRate` change only by the host's own transaction for each (10_state.md R41,
R52). -/
def Obligations.SettingsChangeOnlyByTheirTransactions : Prop :=
  ∀ s t : State, step s = .next t →
    (t.p.playing ≠ s.p.playing → s.busy = false ∧ ∃ b rest, s.host = .setPlaying b :: rest) ∧
    (t.p.paused ≠ s.p.paused → s.busy = false ∧ ∃ b rest, s.host = .setPaused b :: rest) ∧
    (t.p.repeatFlag ≠ s.p.repeatFlag → s.busy = false ∧ ∃ b rest, s.host = .setRepeat b :: rest) ∧
    (t.p.sampleRate ≠ s.p.sampleRate → s.busy = false ∧ ∃ r rest, s.host = .setRate r :: rest)

/-! ### Row load and note-on (44_mixer.md) -/

/-- NOTEON (R263 to R265): the note part then the sample part, on every voice, period and sample number. -/
def Obligations.NoteOnStrikesTheVoiceAndSetsItsSample : Prop :=
  ∀ (m : Module) (n : BitVec 8) (q : BitVec 12) (v : Voice),
    let strikes : Bool := q != 0 && v.command != 3 && v.command != 5
    noteOn m n q v =
      { v with
        period := if strikes then q else v.period
        samplepos := if strikes then 0 else v.samplepos
        chflags := if strikes then 3 else v.chflags
        noteon := strikes || v.noteon
        slideto := if q = 0 then v.slideto else q
        sample := if h : 1 ≤ n.toNat ∧ n.toNat ≤ 31 then ⟨n.toNat - 1, by omega⟩ else v.sample
        volume := if h : 1 ≤ n.toNat ∧ n.toNat ≤ 31 then (m.smp[n.toNat - 1]'(by omega)).volume else v.volume }

/-- ROWLOAD (R262, R266): on a new-row frame the command and the data byte are latched and the cell's note-on runs, unless the
cell is DELAYNOTE; on another frame nothing is loaded. -/
def Obligations.RowLoadLatchesAndNotes : Prop :=
  ∀ (c : BitVec 4) (d n : BitVec 8) (q : BitVec 12) (s : State),
    let latched := { s.voice with command := c, data := d }
    (s.newRow = false → loadCell c d n q s = s ∧ loadDeferred c d s = s) ∧
    (s.newRow = true →
      loadCell c d n q s = { s with ch := s.ch.set s.chan (noteOn s.m n q latched) } ∧
      loadDeferred c d s = { s with ch := s.ch.set s.chan latched })

/-- On a frame that is not a new-tick frame no handler runs: an instruction is its row load and nothing else
(40_sequencer.md R165). -/
def Obligations.NoHandlerRunsBetweenTicks : Prop :=
  ∀ (i : Instr) (s : State), s.newTick = false →
    exec i s = .next
      (if i.opcode = .delaynote then loadDeferred (cellCmd (encode i)) (cellData (encode i)) s
        else loadCell (cellCmd (encode i)) (cellData (encode i)) i.smp i.period s)

/-! ### Pitch effects (41_pitch_effects.md). In these and the next statements `t` is the state after the row load. -/

/-- ARP (R182). -/
def Obligations.ArpStoresThenCyclesTheTable : Prop :=
  ∀ (smp : BitVec 8) (period : BitVec 12) (x y : BitVec 4) (s : State), s.newTick = true →
    let t := loadCell 0x0 (x ++ y) smp period s
    let v := t.voice
    (s.p.tick = 0 → exec (.arp smp period x y) s = .next (t.setVoice { v with arpeggio := x ++ y })) ∧
    (s.p.tick ≠ 0 → v.arpeggio = 0 → exec (.arp smp period x y) s = .next t) ∧
    (s.p.tick ≠ 0 → v.arpeggio ≠ 0 →
      let k := s.p.tick.toNat % 3
      let off := if k = 0 then 0 else if k = 1 then v.arpeggio.toNat / 16 else v.arpeggio.toNat % 16
      let idx := v.note.toNat + off
      exec (.arp smp period x y) s = .next
        (t.setVoice
          { v with
            vmod := if idx ≤ 35 then .set (fOfNat (periodTab idx)) else v.vmod
            chflags := v.chflags ||| 1 }))

/-- PORTUP and PORTDN (R183, R184). -/
def Obligations.PortUpAndDownSlideThePeriod : Prop :=
  ∀ (smp : BitVec 8) (period : BitVec 12) (data : BitVec 8) (s : State), s.newTick = true →
    (let t := loadCell 0x1 data smp period s;
      let v := t.voice;
      (s.p.tick = 0 → exec (.portup smp period data) s = .next
        (t.setVoice { v with slidespeed := if data = 0 then v.slidespeed else data })) ∧
      (s.p.tick ≠ 0 → ∃ q : BitVec 12,
        (q.toNat : Int) = max 113 (min ((v.period.toNat : Int) - v.slidespeed.toNat) 856) ∧
        exec (.portup smp period data) s = .next (t.setVoice { v with period := q, chflags := v.chflags ||| 3 }))) ∧
    (let t := loadCell 0x2 data smp period s;
      let v := t.voice;
      (s.p.tick = 0 → exec (.portdn smp period data) s = .next
        (t.setVoice { v with slidespeed := if data = 0 then v.slidespeed else data })) ∧
      (s.p.tick ≠ 0 → ∃ q : BitVec 12,
        (q.toNat : Int) = max 113 (min ((v.period.toNat : Int) + v.slidespeed.toNat) 856) ∧
        exec (.portdn smp period data) s = .next (t.setVoice { v with period := q, chflags := v.chflags ||| 3 })))

/-- TONEPORTA (R185) and its step toward the target, never past it (R181). -/
def Obligations.TonePortaStepsTowardItsTarget : Prop :=
  ∀ (smp : BitVec 8) (period : BitVec 12) (data : BitVec 8) (s : State), s.newTick = true →
    let t := loadCell 0x3 data smp period s
    let v := t.voice
    (s.p.tick = 0 → exec (.toneporta smp period data) s = .next
      (t.setVoice { v with slidetospeed := if data = 0 then v.slidetospeed else data })) ∧
    (s.p.tick ≠ 0 → ∃ q : BitVec 12,
      (v.period.toNat < v.slideto.toNat → q.toNat = min (v.period.toNat + v.slidetospeed.toNat) v.slideto.toNat) ∧
      (v.slideto.toNat < v.period.toNat →
        (q.toNat : Int) = max ((v.period.toNat : Int) - v.slidetospeed.toNat) v.slideto.toNat) ∧
      (v.period = v.slideto → q = v.period) ∧
      exec (.toneporta smp period data) s = .next (t.setVoice { v with period := q, chflags := v.chflags ||| 3 }))

/-- VIBRATO (R186) and the waveform engine (R180), on the sine, ramp and square tables as 20_memory.md R102 and R103 print
them; the integer product stays within 1905 whatever the open random table (R104) holds. -/
def Obligations.VibratoModulatesOnEveryTick : Prop :=
  (∀ p : BitVec 6,
    vibTab 0 p = (if p.toNat < 32 then 1 else -1) *
      [0, 12, 25, 37, 49, 60, 71, 81, 90, 98, 106, 112, 117, 122, 125, 126,
        127, 126, 125, 122, 117, 112, 106, 98, 90, 81, 71, 60, 49, 37, 25, 12].getD (p.toNat % 32) 0 ∧
    vibTab 1 p = 127 - 4 * (p.toNat : Int) ∧
    vibTab 2 p = (if p.toNat < 32 then 127 else -127)) ∧
  (∀ (depth : BitVec 4) (wave : BitVec 2) (pos : BitVec 6),
    -1905 ≤ (depth.toNat : Int) * vibTab wave pos ∧ (depth.toNat : Int) * vibTab wave pos ≤ 1905) ∧
  ∀ (smp : BitVec 8) (period : BitVec 12) (x y : BitVec 4) (s : State), s.newTick = true →
    let t := loadCell 0x4 (x ++ y) smp period s
    let v := t.voice
    let depth := if s.p.tick = 0 ∧ y ≠ 0 then y else v.vibratodepth
    let speed := if s.p.tick = 0 ∧ x ≠ 0 then x else v.vibratospeed
    ∃ pos : BitVec 6, pos.toNat = (v.vibratopos.toNat + speed.toNat) % 64 ∧
      exec (.vibrato smp period x y) s = .next
        (t.setVoice
          { v with
            vibratodepth := depth
            vibratospeed := speed
            vmod := .add
              (fDiv (fOfInt ((depth.toNat : Int) * vibTab v.vibratowave v.vibratopos)) 0x404F800000000000)
            chflags := v.chflags ||| 1
            vibratopos := pos })

/-- TONEVOL and VIBVOL (R187, R188): nothing at tick 0; later the portamento or the vibrato goes on and the volume slides by
42_volume_sample_effects.md R210. -/
def Obligations.ToneVolAndVibVolSlideTheVolumeToo : Prop :=
  ∀ (smp : BitVec 8) (period : BitVec 12) (x y : BitVec 4) (s : State), s.newTick = true →
    (let t := loadCell 0x5 (x ++ y) smp period s;
      let v := t.voice;
      (s.p.tick = 0 → exec (.tonevol smp period x y) s = .next t) ∧
      (s.p.tick ≠ 0 → ∃ (q : BitVec 12) (vol : BitVec 8),
        (v.period.toNat < v.slideto.toNat → q.toNat = min (v.period.toNat + v.slidetospeed.toNat) v.slideto.toNat) ∧
        (v.slideto.toNat < v.period.toNat →
          (q.toNat : Int) = max ((v.period.toNat : Int) - v.slidetospeed.toNat) v.slideto.toNat) ∧
        (v.period = v.slideto → q = v.period) ∧
        (vol.toNat : Int) =
          (if x ≠ 0 ∧ y = 0 then min ((v.volume.toNat : Int) + x.toNat) 64
            else if x = 0 ∧ y ≠ 0 then max ((v.volume.toNat : Int) - y.toNat) 0 else v.volume.toNat) ∧
        exec (.tonevol smp period x y) s = .next
          (t.setVoice { v with period := q, chflags := v.chflags ||| 3, volume := vol }))) ∧
    (let t := loadCell 0x6 (x ++ y) smp period s;
      let v := t.voice;
      (s.p.tick = 0 → exec (.vibvol smp period x y) s = .next t) ∧
      (s.p.tick ≠ 0 → ∃ (pos : BitVec 6) (vol : BitVec 8),
        pos.toNat = (v.vibratopos.toNat + v.vibratospeed.toNat) % 64 ∧
        (vol.toNat : Int) =
          (if x ≠ 0 ∧ y = 0 then min ((v.volume.toNat : Int) + x.toNat) 64
            else if x = 0 ∧ y ≠ 0 then max ((v.volume.toNat : Int) - y.toNat) 0 else v.volume.toNat) ∧
        exec (.vibvol smp period x y) s = .next
          (t.setVoice
            { v with
              vmod := .add
                (fDiv (fOfInt ((v.vibratodepth.toNat : Int) * vibTab v.vibratowave v.vibratopos)) 0x404F800000000000)
              chflags := v.chflags ||| 1
              vibratopos := pos
              volume := vol })))

/-- FINEUP and FINEDN (R189, R190): one clamped slide at tick 0, nothing later. -/
def Obligations.FineSlidesMoveThePeriodOnce : Prop :=
  ∀ (smp : BitVec 8) (period : BitVec 12) (y : BitVec 4) (s : State), s.newTick = true →
    (let t := loadCell 0xE (0x1#4 ++ y) smp period s;
      let v := t.voice;
      (s.p.tick = 0 → ∃ q : BitVec 12, (q.toNat : Int) = max 113 (min ((v.period.toNat : Int) - y.toNat) 856) ∧
        exec (.fineup smp period y) s = .next (t.setVoice { v with period := q, chflags := v.chflags ||| 3 })) ∧
      (s.p.tick ≠ 0 → exec (.fineup smp period y) s = .next t)) ∧
    (let t := loadCell 0xE (0x2#4 ++ y) smp period s;
      let v := t.voice;
      (s.p.tick = 0 → ∃ q : BitVec 12, (q.toNat : Int) = max 113 (min ((v.period.toNat : Int) + y.toNat) 856) ∧
        exec (.finedn smp period y) s = .next (t.setVoice { v with period := q, chflags := v.chflags ||| 3 })) ∧
      (s.p.tick ≠ 0 → exec (.finedn smp period y) s = .next t))

/-! ### Volume and sample effects (42_volume_sample_effects.md; VIBWAVE is 41_pitch_effects.md R191) -/

/-- OFFSET (R211), SETVOL (R213, no clamp) and VIBWAVE (R191, the two low bits): one register at tick 0, nothing later. -/
def Obligations.OffsetSetVolAndVibWaveStoreTheirOperand : Prop :=
  ∀ (smp : BitVec 8) (period : BitVec 12) (data : BitVec 8) (y : BitVec 4) (s : State), s.newTick = true →
    (let t := loadCell 0x9 data smp period s;
      (s.p.tick = 0 → exec (.offset smp period data) s = .next
        (t.setVoice { t.voice with samplepos := fOfNat (data.toNat * 256) })) ∧
      (s.p.tick ≠ 0 → exec (.offset smp period data) s = .next t)) ∧
    (let t := loadCell 0xC data smp period s;
      (s.p.tick = 0 → exec (.setvol smp period data) s = .next (t.setVoice { t.voice with volume := data })) ∧
      (s.p.tick ≠ 0 → exec (.setvol smp period data) s = .next t)) ∧
    (let t := loadCell 0xE (0x4#4 ++ y) smp period s;
      (s.p.tick = 0 → ∃ w : BitVec 2, w.toNat = y.toNat % 4 ∧
        exec (.vibwave smp period y) s = .next (t.setVoice { t.voice with vibratowave := w })) ∧
      (s.p.tick ≠ 0 → exec (.vibwave smp period y) s = .next t))

/-- VOLSLIDE (R212) and its step (R210). -/
def Obligations.VolSlideMovesTheVolumeAfterTickZero : Prop :=
  ∀ (smp : BitVec 8) (period : BitVec 12) (x y : BitVec 4) (s : State), s.newTick = true →
    let t := loadCell 0xA (x ++ y) smp period s
    let v := t.voice
    (s.p.tick = 0 → exec (.volslide smp period x y) s = .next t) ∧
    (s.p.tick ≠ 0 → ∃ vol : BitVec 8,
      (vol.toNat : Int) =
        (if x ≠ 0 ∧ y = 0 then min ((v.volume.toNat : Int) + x.toNat) 64
          else if x = 0 ∧ y ≠ 0 then max ((v.volume.toNat : Int) - y.toNat) 0 else v.volume.toNat) ∧
      exec (.volslide smp period x y) s = .next (t.setVoice { v with volume := vol }))

/-- RETRIG (R214) and CUT (R217): the same handler on every tick. -/
def Obligations.RetrigAndCutActOnTheirTicks : Prop :=
  ∀ (smp : BitVec 8) (period : BitVec 12) (y : BitVec 4) (s : State), s.newTick = true →
    (let t := loadCell 0xE (0x9#4 ++ y) smp period s;
      exec (.retrig smp period y) s = .next
        (if y ≠ 0 ∧ s.p.tick.toNat % y.toNat = 0 then t.setVoice { t.voice with samplepos := 0 } else t)) ∧
    (let t := loadCell 0xE (0xC#4 ++ y) smp period s;
      exec (.cut smp period y) s = .next
        (if s.p.tick.toNat = y.toNat then t.setVoice { t.voice with volume := 0 } else t))

/-- FINEVOLUP and FINEVOLDN (R215, R216): one clamped change at tick 0, nothing later. -/
def Obligations.FineVolumeClampsAtTickZero : Prop :=
  ∀ (smp : BitVec 8) (period : BitVec 12) (y : BitVec 4) (s : State), s.newTick = true →
    (let t := loadCell 0xE (0xA#4 ++ y) smp period s;
      let v := t.voice;
      (s.p.tick = 0 → ∃ vol : BitVec 8, (vol.toNat : Int) = max 0 (min ((v.volume.toNat : Int) + y.toNat) 64) ∧
        exec (.finevolup smp period y) s = .next (t.setVoice { v with volume := vol })) ∧
      (s.p.tick ≠ 0 → exec (.finevolup smp period y) s = .next t)) ∧
    (let t := loadCell 0xE (0xB#4 ++ y) smp period s;
      let v := t.voice;
      (s.p.tick = 0 → ∃ vol : BitVec 8, (vol.toNat : Int) = max 0 (min ((v.volume.toNat : Int) - y.toNat) 64) ∧
        exec (.finevoldn smp period y) s = .next (t.setVoice { v with volume := vol })) ∧
      (s.p.tick ≠ 0 → exec (.finevoldn smp period y) s = .next t))

/-- DELAYNOTE (R218): the row load latches the command only; at the tick of the operand the note-on runs on the cell read
again from the image. -/
def Obligations.DelayNoteStrikesAtItsTick : Prop :=
  ∀ (smp : BitVec 8) (period : BitVec 12) (y : BitVec 4) (s : State), s.newTick = true →
    let t := loadDeferred 0xE (0xD#4 ++ y) s
    let entry := s.m.patternTable[s.p.songPosition.toNat % 128]'(Nat.mod_lt _ (by decide))
    let cell := s.memRead4
      (1084 + entry.toNat * (256 * s.m.nch.toNat) + s.p.row.toNat * (4 * s.m.nch.toNat) + s.chan.val * 4)
    (s.p.tick.toNat = y.toNat → exec (.delaynote smp period y) s = .next
      (t.setVoice (noteOn s.m (cell.extractLsb' 28 4 ++ cell.extractLsb' 12 4) (cell.extractLsb' 16 12) t.voice))) ∧
    (s.p.tick.toNat ≠ y.toNat → exec (.delaynote smp period y) s = .next t)

/-! ### Control flow, timing and system effects (43_flow_effects.md) -/

/-- JUMP and BREAK (R230, R231). The position of BREAK's target is stated for the positions a playing song can have, at most
254 (10_state.md R45). -/
def Obligations.JumpAndBreakRequestAPosition : Prop :=
  ∀ (smp : BitVec 8) (period : BitVec 12) (data : BitVec 8) (x y : BitVec 4) (s : State), s.newTick = true →
    (let t := loadCell 0xB data smp period s;
      (s.p.tick = 0 → exec (.jump smp period data) s = .next
        (t.setPlayer { s.p with breakRow := 0, patternJump := data, flags := s.p.flags ||| 0x10 })) ∧
      (s.p.tick ≠ 0 → exec (.jump smp period data) s = .next t)) ∧
    (let t := loadCell 0xD (x ++ y) smp period s;
      (s.p.tick = 0 → s.p.songPosition.toNat ≤ 254 → ∃ row target : BitVec 8,
        row.toNat = x.toNat * 10 + y.toNat ∧
        (s.p.flags.getLsbD 4 = true → target = s.p.patternJump) ∧
        (s.p.flags.getLsbD 4 = false → target.toNat = s.p.songPosition.toNat + 1) ∧
        exec (.brk smp period x y) s = .next
          (t.setPlayer { s.p with breakRow := row, patternJump := target, flags := s.p.flags ||| 0x10 })) ∧
      (s.p.tick ≠ 0 → exec (.brk smp period x y) s = .next t))

/-- SPEED (R235): above 32 the bpm, 1 to 32 the ticks per row, 0 nothing. -/
def Obligations.SpeedSetsTempoOrTicks : Prop :=
  ∀ (smp : BitVec 8) (period : BitVec 12) (data : BitVec 8) (s : State), s.newTick = true →
    let t := loadCell 0xF data smp period s
    (s.p.tick = 0 → 32 < data.toNat → exec (.speed smp period data) s = .next (t.setPlayer { s.p with bpm := data })) ∧
    (s.p.tick = 0 → 1 ≤ data.toNat → data.toNat ≤ 32 → ∃ q : BitVec 6, q.toNat = data.toNat ∧
      exec (.speed smp period data) s = .next (t.setPlayer { s.p with speed := q })) ∧
    (s.p.tick = 0 → data = 0 → exec (.speed smp period data) s = .next t) ∧
    (s.p.tick ≠ 0 → exec (.speed smp period data) s = .next t)

/-- FILTER (R232): with 4 channels the low bit of the operand clear switches the flag on, set switches it off; with another
channel count, and after tick 0, nothing. -/
def Obligations.FilterFollowsTheLowBitOnFourChannels : Prop :=
  ∀ (smp : BitVec 8) (period : BitVec 12) (y : BitVec 4) (s : State), s.newTick = true →
    let t := loadCell 0xE (0x0#4 ++ y) smp period s
    (s.p.tick = 0 → s.m.nch = 4 → exec (.filter smp period y) s = .next
      (t.setPlayer { s.p with filter := decide (y.toNat % 2 = 0) })) ∧
    (s.p.tick = 0 → s.m.nch ≠ 4 → exec (.filter smp period y) s = .next t) ∧
    (s.p.tick ≠ 0 → exec (.filter smp period y) s = .next t)

/-- LOOP (R233). The marked row is stated for the rows a song can be on, below 64 (10_state.md R44). -/
def Obligations.LoopMarksOrCountsTheRow : Prop :=
  ∀ (smp : BitVec 8) (period : BitVec 12) (y : BitVec 4) (s : State), s.newTick = true →
    let t := loadCell 0xE (0x6#4 ++ y) smp period s
    (s.p.tick = 0 → y = 0 → s.p.row.toNat < 64 → ∃ r : BitVec 6, r.toNat = s.p.row.toNat ∧
      exec (.loop smp period y) s = .next (t.setPlayer { s.p with loopRow := r })) ∧
    (s.p.tick = 0 → y ≠ 0 → ∃ n : BitVec 4,
      n.toNat = (if s.p.loopCount = 0 then y.toNat else s.p.loopCount.toNat - 1) ∧
      exec (.loop smp period y) s = .next
        (t.setPlayer
          { s.p with loopCount := n, flags := if n = 0 then s.p.flags else s.p.flags ||| 0x40 })) ∧
    (s.p.tick ≠ 0 → exec (.loop smp period y) s = .next t)

/-- DELAYPAT (R234): a request is taken only when none is pending. -/
def Obligations.DelayPatIsTakenOnce : Prop :=
  ∀ (smp : BitVec 8) (period : BitVec 12) (y : BitVec 4) (s : State), s.newTick = true →
    let t := loadCell 0xE (0xE#4 ++ y) smp period s
    (s.p.tick = 0 → s.p.patternDelay = 0 → exec (.delaypat smp period y) s = .next
      (t.setPlayer { s.p with patternDelay := y, patternWait := 0 })) ∧
    (s.p.tick = 0 → s.p.patternDelay ≠ 0 → exec (.delaypat smp period y) s = .next t) ∧
    (s.p.tick ≠ 0 → exec (.delaypat smp period y) s = .next t)

/-- The seven no-op slots (R250 to R256): on every frame the row load and nothing else. -/
def Obligations.NoOpSlotsOnlyLoadTheRow : Prop :=
  ∀ (smp : BitVec 8) (period : BitVec 12) (data : BitVec 8) (y : BitVec 4) (s : State),
    exec (.nop7 smp period data) s = .next (loadCell 0x7 data smp period s) ∧
    exec (.nop8 smp period data) s = .next (loadCell 0x8 data smp period s) ∧
    exec (.nope3 smp period y) s = .next (loadCell 0xE (0x3#4 ++ y) smp period s) ∧
    exec (.nope5 smp period y) s = .next (loadCell 0xE (0x5#4 ++ y) smp period s) ∧
    exec (.nope7 smp period y) s = .next (loadCell 0xE (0x7#4 ++ y) smp period s) ∧
    exec (.nope8 smp period y) s = .next (loadCell 0xE (0x8#4 ++ y) smp period s) ∧
    exec (.nopef smp period y) s = .next (loadCell 0xE (0xF#4 ++ y) smp period s)

/-! ### The pitch accumulator and the mixer (44_mixer.md) -/

/-- The note index (R268): the largest index whose table period is not below the period, unchanged above 856; and `noteOf`
is the same search from no note. The table is the 36 periods of 20_memory.md R100. -/
def Obligations.NoteIndexIsTheLastTablePeriodNotBelow : Prop :=
  (List.range 36).map periodTab =
    [856, 808, 762, 720, 678, 640, 604, 570, 538, 508, 480, 453,
      428, 404, 381, 360, 339, 320, 302, 285, 269, 254, 240, 226,
      214, 202, 190, 180, 170, 160, 151, 143, 135, 127, 120, 113] ∧
  (∀ q : BitVec 12,
    (856 < q.toNat → noteOf q = none) ∧
    (q.toNat ≤ 856 → ∃ k, noteOf q = some k ∧ k ≤ 35 ∧ q.toNat ≤ periodTab k ∧
      ∀ j, k < j → j ≤ 35 → periodTab j < q.toNat)) ∧
  ∀ s : State,
    (channelTail s).voice.note.toNat =
      if s.voice.chflags.getLsbD 1 then (noteOf s.voice.period).getD s.voice.note.toNat else s.voice.note.toNat

/-- `voiceperiod` is the base period with the pending modulation (R267), and the playback speed is recomputed by the four
operations of R270 exactly when it is due (R269). The multipliers are the 16 of 20_memory.md R101, finetune -8 first; what
one operation answers is MixingPathIsExact's second clause. -/
def Obligations.VoicePeriodAndSpeedAreRecomputed : Prop :=
  (List.range 16).map (fun t => finetuneMultiplier (BitVec.ofInt 4 ((t : Int) - 8))) =
    [0x3FEE3437E7101344, 0x3FEE6C3FCC4E16CF, 0x3FEEA4AFA2A490DA, 0x3FEEDD882AE58C0E,
      0x3FEF16CA2748C5B4, 0x3FEF50765B6E4540, 0x3FEF8A8D8C60F8B0, 0x3FEFC510809955BF,
      0x3FF0000000000000, 0x3FF01DAE69F839EE, 0x3FF03B93E39DDB43, 0x3FF059B0D3158574,
      0x3FF078059F4155D1, 0x3FF09692AFC24500, 0x3FF0B5586CF9890F, 0x3FF0D4574009FA16] ∧
  ∀ s : State,
    let v := s.voice
    let u := (channelTail s).voice
    let vp := match v.vmod with
      | .none => fOfNat v.period.toNat
      | .add r => fAdd (fOfNat v.period.toNat) r
      | .set r => r
    u.voiceperiod = vp ∧
    u.samplespeed =
      if (v.chflags.getLsbD 0 = true ∨ s.p.flags.getLsbD 1 = true) ∧ fEq vp 0 = false then
        fDiv
          (fMul (fDiv 0x415B0F874CCCCCCD (fMul vp 0x4000000000000000))
            (finetuneMultiplier s.m.smp[v.sample].finetune))
          (fOfNat s.p.sampleRate.toNat)
      else v.samplespeed

/-- A voice that is off (R272): its step moves no cursor, fetches nothing and adds nothing; `och` (R271), the VU register
with 0.0 (R278) and the recomputed pitch are all that changes, and the dirty flags are cleared (R281). -/
def Obligations.SilentVoiceAddsNothing : Prop :=
  ∀ s : State, s.voice.noteon = false →
    let u := (channelTail s).voice
    channelTail s =
      { s with
        ch := s.ch.set s.chan
          { s.voice with voiceperiod := u.voiceperiod, note := u.note, samplespeed := u.samplespeed, chflags := 0 }
        p := { s.p with
          och := s.p.och ^^^ BitVec.ofNat 1 s.chan.val
          vu := s.p.vu.set s.chan (fMax s.p.vu[s.chan] 0) } }

/-- A sounding voice (R273 to R281), for a cursor that stays finite: advance, guarded fetch at the floor of the cursor, the
integer i with i ≤ cursor < i + 1 (00_scope.md R11), negative ones included, scaling, accumulation into the accumulator
`och` selects, VU, then the loop wrap of a looped sample, which never stops, or the stop at the end. What one real
operation answers is MixingPathIsExact's second clause. -/
def Obligations.SoundingVoiceMixesOneSample : Prop :=
  ∀ (s : State) (i : Int),
    let v := s.voice
    let u := (channelTail s).voice
    let pos := fAdd v.samplepos u.samplespeed
    let d := s.m.smp[v.sample]
    let looped : Bool := d.loopStart != 0 || d.loopLength != 0
    let sample := if 0 ≤ i ∧ i < d.length.toNat then pcm (s.memRead1 (d.pcmBase.toNat + i.toNat)) else 0
    let f := fDiv (fMul sample (fOfNat v.volume.toNat)) 0x4050000000000000
    let och := s.p.och ^^^ BitVec.ofNat 1 s.chan.val
    v.noteon = true → fExp pos < 2047 → i * 2 ^ 1074 ≤ fUnits pos → fUnits pos < (i + 1) * 2 ^ 1074 →
    channelTail s =
      { s with
        ch := s.ch.set s.chan
          { v with
            voiceperiod := u.voiceperiod
            note := u.note
            samplespeed := u.samplespeed
            chflags := 0
            samplepos :=
              if looped && fLe (fOfNat (d.loopStart.toNat + d.loopLength.toNat)) pos then
                fSub pos (fOfNat d.loopLength.toNat)
              else pos
            noteon := looped || !fLe (fOfNat d.length.toNat) pos }
        p := { s.p with
          och := och
          acc0 := if och = 0 then fAdd s.p.acc0 f else s.p.acc0
          acc1 := if och = 0 then s.p.acc1 else fAdd s.p.acc1 f
          vu := s.p.vu.set s.chan (fMax s.p.vu[s.chan] (fAbs f)) } }

/-- Channel c uses accumulator ((c + 1) div 2) mod 2 (R271): the selector is 0 at the start of a frame, every channel step
updates it, so before channel c it is (c div 2) mod 2 and after it ((c + 1) div 2) mod 2. -/
def Obligations.ChannelUsesTheHardPannedAccumulator : Prop :=
  ∀ s : State,
    (s.p.och.toNat = s.chan.val / 2 % 2 → (channelTail s).p.och.toNat = (s.chan.val + 1) / 2 % 2) ∧
    (s.p.och.toNat = s.chan.val / 2 % 2 → (s.chan.val + 1) / 2 % 2 = 0 → (channelTail s).p.acc1 = s.p.acc1) ∧
    (s.p.och.toNat = s.chan.val / 2 % 2 → (s.chan.val + 1) / 2 % 2 = 1 → (channelTail s).p.acc0 = s.p.acc0)

/-- The real arithmetic of 00_scope.md R11 and R17, on the reference `NUM`, binary64 (log 4). `fUnits` is the value of the
binary64 fields; on finite operands each operation is the exact result rounded once, to nearest, ties to even (`RoundsTo`),
with IEEE 754's signs of zero; the comparisons, `abs` and `maxr` act on the values, and `real(n)` is exact. And the mixing
path rounds nothing (R282): a PCM byte is its signed value over 128 (20_memory.md R95), scaling gives exactly byte times
volume over 8192, and adding multiples of 2^-13, up to 2^40 of them, is exact. -/
def Obligations.MixingPathIsExact : Prop :=
  (∀ a : Binary64,
    let e := a.toNat / 2 ^ 52 % 2 ^ 11
    let f := a.toNat % 2 ^ 52
    fExp a = e ∧ fNeg a = decide (2 ^ 63 ≤ a.toNat) ∧
      (e < 2047 → fUnits a =
        (if 2 ^ 63 ≤ a.toNat then -1 else 1) * ((if e = 0 then f else (2 ^ 52 + f) * 2 ^ (e - 1) : Nat) : Int))) ∧
  (∀ a b : Binary64, fExp a < 2047 → fExp b < 2047 →
    RoundsTo (fUnits a + fUnits b) 1 (fAdd a b) ∧
    RoundsTo (fUnits a - fUnits b) 1 (fSub a b) ∧
    RoundsTo (fUnits a * fUnits b) (2 ^ 1074) (fMul a b) ∧
    (fUnits b ≠ 0 →
      RoundsTo ((fUnits b).sign * fUnits a * 2 ^ 1074) (fUnits b).natAbs (fDiv a b) ∧
        fNeg (fDiv a b) = (fNeg a != fNeg b)) ∧
    fNeg (fMul a b) = (fNeg a != fNeg b) ∧
    (fUnits a + fUnits b = 0 → fNeg (fAdd a b) = (fNeg a && fNeg b)) ∧
    (fUnits a - fUnits b = 0 → fNeg (fSub a b) = (fNeg a && !fNeg b)) ∧
    fLe a b = decide (fUnits a ≤ fUnits b) ∧
    fEq a b = decide (fUnits a = fUnits b) ∧
    fUnits (fAbs a) = |fUnits a| ∧
    fUnits (fMax a b) = max (fUnits a) (fUnits b)) ∧
  (∀ n : Nat, n < 2 ^ 53 → fUnits (fOfNat n) = n * 2 ^ 1074 ∧ fExp (fOfNat n) < 2047) ∧
  (∀ n : Int, n.natAbs < 2 ^ 53 → fUnits (fOfInt n) = n * 2 ^ 1074 ∧ fExp (fOfInt n) < 2047) ∧
  (∀ b : Byte, fUnits (pcm b) = b.toInt * 2 ^ 1067) ∧
  (∀ b volume : BitVec 8,
    fUnits (scaleVolume (pcm b) volume) = b.toInt * volume.toNat * 2 ^ 1061 ∧
      fExp (scaleVolume (pcm b) volume) < 2047) ∧
  (∀ (x y : Binary64) (m n : Int), fExp x < 2047 → fExp y < 2047 → fUnits x = m * 2 ^ 1061 →
    fUnits y = n * 2 ^ 1061 → m.natAbs ≤ 2 ^ 40 → n.natAbs ≤ 2 ^ 40 →
    fUnits (fAdd x y) = (m + n) * 2 ^ 1061 ∧ fExp (fAdd x y) < 2047)

/-- The VU registers only rise (R278): after a channel's step its VU register is a number not below what it was, and the
other channels' registers are unchanged. -/
def Obligations.VuLevelsOnlyRise : Prop :=
  ∀ s : State,
    (fIsNaN s.p.vu[s.chan] = false →
      fIsNaN (channelTail s).p.vu[s.chan] = false ∧ fLe s.p.vu[s.chan] (channelTail s).p.vu[s.chan] = true ∧
        fLe 0 (channelTail s).p.vu[s.chan] = true) ∧
    ∀ c : Fin 28, c ≠ s.chan → (channelTail s).p.vu[c] = s.p.vu[c]

/-! ### The sequencer (40_sequencer.md) -/

/-- The row end (R155 to R160): nothing before the tick reaches the speed; then a pattern delay, or else, with the tick back
at 0 and NEWROW set, loop before break before increment. -/
def Obligations.RowEndResolvesDelayLoopBreakIncrement : Prop :=
  ∀ p : Player,
    (p.tick.toNat < p.speed.toNat → advanceRow p = p) ∧
    (p.speed.toNat ≤ p.tick.toNat →
      (p.patternDelay ≠ 0 → p.patternWait.toNat < p.patternDelay.toNat → ∃ w : BitVec 4,
        w.toNat = p.patternWait.toNat + 1 ∧ advanceRow p = { p with patternWait := w, tick := 0 }) ∧
      (p.patternDelay = 0 ∨ p.patternDelay.toNat ≤ p.patternWait.toNat →
        let q := { p with patternDelay := 0, patternWait := 0, tick := 0 }
        (p.flags.getLsbD 6 = true → ∃ r : BitVec 8, r.toNat = p.loopRow.toNat ∧
          advanceRow p = { q with row := r, flags := p.flags &&& 0xAF ||| 2 }) ∧
        (p.flags.getLsbD 6 = false → p.flags.getLsbD 4 = true → ∃ pos : BitVec 9, pos.toNat = p.patternJump.toNat ∧
          advanceRow p =
            { q with
              songPosition := pos
              row := p.breakRow
              patternJump := 0
              breakRow := 0
              flags := p.flags &&& 0xEF ||| 2 }) ∧
        (p.flags.getLsbD 6 = false → p.flags.getLsbD 4 = false → p.row.toNat < 255 → ∃ r : BitVec 8,
          r.toNat = p.row.toNat + 1 ∧ advanceRow p = { q with row := r, flags := p.flags ||| 2 })))

/-- ADVANCE is its steps in order: samples per tick and the tick accumulator (R153, R154), from every offset, one that is
already past `spt` after a SET_RATE included; the row end; row overflow and position overflow (R161, R162). -/
def Obligations.PositionOverflowWrapsOrEndsTheSong : Prop :=
  (∀ (len : BitVec 8) (p : Player),
    advance len p = checkSongEnd len (advancePosition (advanceRow (advanceTick p)))) ∧
  (∀ (p : Player) (spt : Nat),
    spt = p.sampleRate.toNat * 60 / p.bpm.toNat / 4 / 6 → 33 ≤ p.bpm.toNat → p.offset.toNat < 2 ^ 32 - 1 →
    p.tick.toNat < 63 →
    (spt < p.offset.toNat + 1 → ∃ tick : BitVec 6, tick.toNat = p.tick.toNat + 1 ∧
      advanceTick p = { p with tick := tick, offset := 0, flags := p.flags ||| 1 }) ∧
    (p.offset.toNat + 1 ≤ spt → ∃ offset : BitVec 32, offset.toNat = p.offset.toNat + 1 ∧
      advanceTick p = { p with offset := offset })) ∧
  (∀ p : Player,
    (p.row.toNat < 64 → advancePosition p = p) ∧
    (64 ≤ p.row.toNat → p.songPosition.toNat ≤ 510 → ∃ pos : BitVec 9, pos.toNat = p.songPosition.toNat + 1 ∧
      advancePosition p = { p with songPosition := pos, row := 0, flags := p.flags ||| 4 })) ∧
  ∀ (len : BitVec 8) (p : Player),
    (p.songPosition.toNat < len.toNat → checkSongEnd len p = p) ∧
    (len.toNat ≤ p.songPosition.toNat → p.repeatFlag = true → checkSongEnd len p = { p with songPosition := 0 }) ∧
    (len.toNat ≤ p.songPosition.toNat → p.repeatFlag = false →
      checkSongEnd len p = { p with endOfSong := true, flags := p.flags &&& 0xF8 })

/-- A tick lasts spt + 1 frames (R153, R154, R166): from the start of a tick that is not the row's last, `spt` ADVANCEs only
count frames and the next one starts the following tick. -/
def Obligations.TickLastsOneMoreThanSamplesPerTick : Prop :=
  ∀ (len : BitVec 8) (p : Player) (n : Nat),
    n = p.sampleRate.toNat * 60 / p.bpm.toNat / 4 / 6 → p.offset = 0 → 33 ≤ p.bpm.toNat →
    p.tick.toNat + 1 < p.speed.toNat → p.row.toNat < 64 → p.songPosition.toNat < len.toNat →
    (∀ k ≤ n, (advance len)^[k] p = { p with offset := BitVec.ofNat 32 k }) ∧
    (advance len)^[n + 1] p = { p with tick := p.tick + 1, flags := p.flags ||| 1 }

/-- A row without delay, break or loop lasts speed * (spt + 1) frames, and then the row increments by one and the tick is 0
(R160, R163, R166), the one-frame marks being cleared between frames. -/
def Obligations.RowLastsSpeedTicks : Prop :=
  ∀ (len : BitVec 8) (p : Player) (n : Nat),
    n = p.sampleRate.toNat * 60 / p.bpm.toNat / 4 / 6 → p.offset = 0 → p.tick = 0 → 33 ≤ p.bpm.toNat →
    1 ≤ p.speed.toNat → p.speed.toNat ≤ 32 → p.flags &&& 0x50 = 0 → p.patternDelay = 0 → p.patternWait = 0 →
    p.row.toNat < 63 → p.songPosition.toNat < len.toNat →
    let frame := fun q : Player => advance len { q with flags := q.flags &&& 0x50 }
    (∀ k < p.speed.toNat * (n + 1), (frame^[k] p).row = p.row ∧ (frame^[k] p).songPosition = p.songPosition) ∧
    frame^[p.speed.toNat * (n + 1)] p = { p with row := p.row + 1, flags := 3 }

/-! ### PARSE, memory and the host's transactions (20_memory.md, 45_host_operations.md, 60_exceptions.md, 70_reset) -/

/-- PARSE succeeds on exactly the eight signatures, with their channel counts (20_memory.md R92); on any other four bytes it
raises FormatError (60_exceptions.md R321): `valid` 0, `ERR` 1, the descriptors cleared but for the signature, nothing else
changed (20_memory.md R97). -/
def Obligations.ParseAcceptsExactlyTheEightSignatures : Prop :=
  ∀ s : State,
    let w := (s.memRead4 1080).toNat
    let n :=
      if w = 0x4D2E4B2E ∨ w = 0x4D214B21 ∨ w = 0x3443484E ∨ w = 0x464C5434 then 4
      else if w = 0x3643484E then 6
      else if w = 0x3843484E ∨ w = 0x464C5438 then 8
      else if w = 0x32384348 then 28
      else 0
    (n ≠ 0 →
      (parse s).m.nch.toNat = n ∧ (parse s).p.valid = true ∧ (parse s).p.err = 0 ∧
      (∀ i : Fin 4, (parse s).m.signature[i] = s.memRead1 (1080 + i.val)) ∧
      parse s = { s with
        m := (parse s).m
        p := { s.p with
          filter := (parse s).p.filter
          vu := Vector.replicate 28 0
          valid := true
          err := 0 } }) ∧
    (n = 0 →
      parse s = { s with
        m :=
          { title := Vector.replicate 20 0
            titleLen := 0
            signature := #v[s.memRead1 1080, s.memRead1 1081, s.memRead1 1082, s.memRead1 1083]
            nch := 4
            songLength := 0
            repeatPosition := 0
            patternTable := Vector.replicate 128 0
            patternCount := 0
            smp := Vector.replicate 31
              { name := Vector.replicate 22 0, length := 0, finetune := 0, volume := 0, loopStart := 0,
                loopLength := 0, pcmBase := 0 } }
        p := { s.p with valid := false, err := 1 } })

/-- A successful PARSE decodes every sample header (20_memory.md R88), normalises its loop (R89) and lays the PCM bases end to
end from the end of the patterns (R94). -/
def Obligations.ParseDecodesSampleHeaders : Prop :=
  ∀ s : State, (parse s).p.valid = true →
    let m := (parse s).m
    (∀ k : Fin 31,
      let st := 20 + k.val * 30
      let byte := fun a => (s.memRead1 a).toNat
      let len := 2 * (byte (st + 22) * 256 + byte (st + 23))
      let ls := 2 * (byte (st + 26) * 256 + byte (st + 27))
      let ll := 2 * (byte (st + 28) * 256 + byte (st + 29))
      (∀ j : Fin 22, m.smp[k].name[j] = s.memRead1 (st + j.val)) ∧
      m.smp[k].length.toNat = len ∧
      m.smp[k].finetune.toInt = (if byte (st + 24) % 16 ≤ 7 then (byte (st + 24) % 16 : Int) else byte (st + 24) % 16 - 16) ∧
      m.smp[k].volume = s.memRead1 (st + 25) ∧
      (ll = 2 ∨ len < ls → m.smp[k].loopStart = 0 ∧ m.smp[k].loopLength = 0) ∧
      (ll ≠ 2 → ls ≤ len → m.smp[k].loopStart.toNat = ls ∧ m.smp[k].loopLength.toNat = ll)) ∧
    m.smp[0].pcmBase.toNat = 1084 + 256 * m.nch.toNat * m.patternCount.toNat ∧
    ∀ k l : Fin 31, l.val = k.val + 1 → m.smp[l].pcmBase.toNat = m.smp[k].pcmBase.toNat + m.smp[k].length.toNat

/-- A successful PARSE decodes title, song length, restart byte and pattern table (20_memory.md R87, R90, R91) and scans row 0
of the first pattern for the last filter command, honoured only with 4 channels (R96). -/
def Obligations.ParseDecodesSongHeaderAndFilter : Prop :=
  ∀ s : State, (parse s).p.valid = true →
    let m := (parse s).m
    let cell := fun c : Nat =>
      s.memRead4 (1084 + (s.memRead1 952).toNat * (256 * m.nch.toNat) + c * 4)
    let isFilter := fun c : Nat => (cell c).toNat / 16 % 256 = 0xE0
    m.titleLen.toNat ≤ 20 ∧
    (∀ i : Fin 20, i.val < m.titleLen.toNat → s.memRead1 i.val ≠ 0 ∧ m.title[i] = s.memRead1 i.val) ∧
    (m.titleLen.toNat < 20 → s.memRead1 m.titleLen.toNat = 0) ∧
    m.songLength = s.memRead1 950 ∧
    m.repeatPosition = (if s.memRead1 951 = 127 then 0 else s.memRead1 951) ∧
    (∀ i : Fin 128, m.patternTable[i] = s.memRead1 (952 + i.val)) ∧
    (∀ i : Fin 128, m.patternTable[i].toNat + 1 ≤ m.patternCount.toNat) ∧
    (∃ i : Fin 128, m.patternTable[i].toNat + 1 = m.patternCount.toNat) ∧
    (m.nch ≠ 4 → (parse s).p.filter = false) ∧
    (m.nch = 4 → (∀ c < 4, ¬ isFilter c) → (parse s).p.filter = false) ∧
    (m.nch = 4 → ∀ c < 4, isFilter c → (∀ d < 4, c < d → ¬ isFilter d) →
      (parse s).p.filter = decide ((cell c).toNat % 2 = 0))

/-- LOAD_IMAGE (45_host_operations.md R301): the image reads back as its bytes and as 0x00 past them (20_memory.md R82),
`valid` and `ERR` are cleared and nothing else changes. The queue and the answer are the model's (log 2). -/
def Obligations.LoadedImageReadsBack : Prop :=
  ∀ (s : State) (bytes : List Byte) (rest : List HostOp), s.busy = false → s.host = .loadImage bytes :: rest →
    bytes.length < 2 ^ 32 →
    ∃ t, step s = .next t ∧ t.modsize.toNat = bytes.length ∧ (∀ a, t.memRead1 a = bytes.getD a 0) ∧
      t.image.wf = true ∧
      t = { s with
        image := t.image
        modsize := t.modsize
        p := { s.p with valid := false, err := 0 }
        host := rest
        replies := .done :: s.replies }

/-- Memory reads are big-endian, byte by byte, and a byte at or beyond `MODSIZE` reads as 0x00 (20_memory.md R82, R83). -/
def Obligations.MemoryReadsAreBigEndian : Prop :=
  ∀ (s : State) (a : Nat),
    (s.modsize.toNat ≤ a → s.memRead1 a = 0) ∧
    (s.memRead2 a).toNat = (s.memRead1 a).toNat * 256 + (s.memRead1 (a + 1)).toNat ∧
    (s.memRead4 a).toNat =
      (s.memRead1 a).toNat * 2 ^ 24 + (s.memRead1 (a + 1)).toNat * 2 ^ 16 + (s.memRead1 (a + 2)).toNat * 2 ^ 8
        + (s.memRead1 (a + 3)).toNat

/-- INITIALIZE (45_host_operations.md R303) gives every sequencer register and every voice the values of 70_reset_and_hazards.md
R351 and R352 and leaves the rest. The queue and the answer are the model's (log 2). -/
def Obligations.InitializeResetsSequencerAndVoices : Prop :=
  ∀ (s : State) (rest : List HostOp), s.busy = false → s.host = .init :: rest →
    step s = .next
      { s with
        host := rest
        replies := .done :: s.replies
        ch := Vector.replicate 28
          { sample := 0, period := 214, voiceperiod := fOfNat 214, volume := 64, command := 0, data := 0, samplepos := 0,
            samplespeed := 0, chflags := 0, noteon := false, slidespeed := 0, slideto := 214, slidetospeed := 0,
            note := 24, arpeggio := 0, vibratodepth := 0, vibratospeed := 0, vibratopos := 0, vibratowave := 0,
            vmod := .none }
        p := { s.p with
          tick := 0
          row := 0
          songPosition := 0
          offset := 0
          flags := 3
          speed := 6
          bpm := 125
          breakRow := 0
          patternJump := 0
          patternDelay := 0
          patternWait := 0
          loopRow := 0
          loopCount := 0
          endOfSong := false
          vu := Vector.replicate 28 0
          acc0 := 0
          acc1 := 0
          och := 0 } }

/-- Power-on (70_reset_and_hazards.md R350): the settings' values, and every register INITIALIZE writes holds its INITIALIZE
value already. -/
def Obligations.PowerOnHoldsTheInitializeValues : Prop :=
  State.reset.p.valid = false ∧ State.reset.p.err = 0 ∧ State.reset.p.playing = false ∧
    State.reset.p.paused = false ∧ State.reset.p.repeatFlag = false ∧ State.reset.p.filter = false ∧
    State.reset.p.sampleRate = 44100 ∧ initializeAll State.reset = State.reset

/-- SET_RATE, SET_PLAYING, SET_PAUSED, SET_REPEAT, READ_STATE and CLEAR_VU (45_host_operations.md R304, R305, R308): each
writes its own register and nothing else, SET_RATE(0) and READ_STATE write none; READ_STATE answers the value of the
register it names, unsigned but for `finetune` (00_scope.md R10); PARSE answers whether it succeeded (R302); and with
nothing pending nothing changes (R300). The queue and the answers are the model's (log 2), and so is the list of names
(log 16). -/
def Obligations.SettingsAndReadsDoOnlyWhatTheySay : Prop :=
  ∀ (s : State) (rest : List HostOp), s.busy = false →
    let u := { s with host := rest }
    (s.host = [] → step s = .next s) ∧
    (∀ r, r ≠ 0 → s.host = .setRate r :: rest →
      step s = .next { u with p := { s.p with sampleRate := r }, replies := .done :: s.replies }) ∧
    (s.host = .setRate 0 :: rest → step s = .next { u with replies := .refusedTransaction :: s.replies }) ∧
    (∀ b, s.host = .setPlaying b :: rest →
      step s = .next { u with p := { s.p with playing := b }, replies := .done :: s.replies }) ∧
    (∀ b, s.host = .setPaused b :: rest →
      step s = .next { u with p := { s.p with paused := b }, replies := .done :: s.replies }) ∧
    (∀ b, s.host = .setRepeat b :: rest →
      step s = .next { u with p := { s.p with repeatFlag := b }, replies := .done :: s.replies }) ∧
    (s.host = .clearVu :: rest →
      step s = .next { u with p := { s.p with vu := Vector.replicate 28 0 }, replies := .done :: s.replies }) ∧
    (s.host = .parse :: rest →
      step s = .next { parse u with replies := .parsed (parse u).p.valid :: s.replies }) ∧
    let reads := fun (r : Reg) (v : Value) =>
      s.host = .readState r :: rest → step s = .next { u with replies := .value v :: s.replies }
    reads .playing (.bit s.p.playing) ∧ reads .paused (.bit s.p.paused) ∧ reads .repeatFlag (.bit s.p.repeatFlag) ∧
    reads .filter (.bit s.p.filter) ∧ reads .tick (.nat s.p.tick.toNat) ∧ reads .row (.nat s.p.row.toNat) ∧
    reads .songPosition (.nat s.p.songPosition.toNat) ∧ reads .offset (.nat s.p.offset.toNat) ∧
    reads .flags (.nat s.p.flags.toNat) ∧ reads .speed (.nat s.p.speed.toNat) ∧ reads .bpm (.nat s.p.bpm.toNat) ∧
    reads .breakRow (.nat s.p.breakRow.toNat) ∧ reads .patternJump (.nat s.p.patternJump.toNat) ∧
    reads .patternDelay (.nat s.p.patternDelay.toNat) ∧ reads .patternWait (.nat s.p.patternWait.toNat) ∧
    reads .sampleRate (.nat s.p.sampleRate.toNat) ∧ reads .loopRow (.nat s.p.loopRow.toNat) ∧
    reads .loopCount (.nat s.p.loopCount.toNat) ∧ reads .endOfSong (.bit s.p.endOfSong) ∧
    reads .och (.nat s.p.och.toNat) ∧ reads .valid (.bit s.p.valid) ∧ reads .err (.nat s.p.err.toNat) ∧
    (∀ c, reads (.vu c) (.real s.p.vu[c])) ∧ reads (.acc 0) (.real s.p.acc0) ∧ reads (.acc 1) (.real s.p.acc1) ∧
    reads .title (.bytes s.m.title.toList) ∧ reads .signature (.bytes s.m.signature.toList) ∧
    reads .titleLen (.nat s.m.titleLen.toNat) ∧ reads .nch (.nat s.m.nch.toNat) ∧
    reads .songLength (.nat s.m.songLength.toNat) ∧ reads .repeatPosition (.nat s.m.repeatPosition.toNat) ∧
    reads .patternCount (.nat s.m.patternCount.toNat) ∧
    (∀ i, reads (.patternTable i) (.nat s.m.patternTable[i].toNat)) ∧
    (∀ c,
      reads (.voice c .sample) (.nat s.ch[c].sample.val) ∧ reads (.voice c .period) (.nat s.ch[c].period.toNat) ∧
      reads (.voice c .voiceperiod) (.real s.ch[c].voiceperiod) ∧
      reads (.voice c .volume) (.nat s.ch[c].volume.toNat) ∧ reads (.voice c .command) (.nat s.ch[c].command.toNat) ∧
      reads (.voice c .data) (.nat s.ch[c].data.toNat) ∧ reads (.voice c .samplepos) (.real s.ch[c].samplepos) ∧
      reads (.voice c .samplespeed) (.real s.ch[c].samplespeed) ∧
      reads (.voice c .chflags) (.nat s.ch[c].chflags.toNat) ∧ reads (.voice c .noteon) (.bit s.ch[c].noteon) ∧
      reads (.voice c .slidespeed) (.nat s.ch[c].slidespeed.toNat) ∧
      reads (.voice c .slideto) (.nat s.ch[c].slideto.toNat) ∧
      reads (.voice c .slidetospeed) (.nat s.ch[c].slidetospeed.toNat) ∧
      reads (.voice c .note) (.nat s.ch[c].note.toNat) ∧ reads (.voice c .arpeggio) (.nat s.ch[c].arpeggio.toNat) ∧
      reads (.voice c .vibratodepth) (.nat s.ch[c].vibratodepth.toNat) ∧
      reads (.voice c .vibratospeed) (.nat s.ch[c].vibratospeed.toNat) ∧
      reads (.voice c .vibratopos) (.nat s.ch[c].vibratopos.toNat) ∧
      reads (.voice c .vibratowave) (.nat s.ch[c].vibratowave.toNat) ∧
      reads (.voice c .vmod) (.modulation s.ch[c].vmod)) ∧
    (∀ k,
      reads (.smp k .name) (.bytes s.m.smp[k].name.toList) ∧ reads (.smp k .length) (.nat s.m.smp[k].length.toNat) ∧
      reads (.smp k .volume) (.nat s.m.smp[k].volume.toNat) ∧
      reads (.smp k .loopStart) (.nat s.m.smp[k].loopStart.toNat) ∧
      reads (.smp k .loopLength) (.nat s.m.smp[k].loopLength.toNat) ∧
      reads (.smp k .pcmBase) (.nat s.m.smp[k].pcmBase.toNat) ∧
      reads (.smp k .finetune)
        (.int (if s.m.smp[k].finetune.toNat ≤ 7 then s.m.smp[k].finetune.toNat else s.m.smp[k].finetune.toNat - 16)))
end

