-- ==== Sys2Proof/Laws/Binary64.lean ====
section
/-! SUPPORT. The rounding of the real arithmetic: its powers of two, its logarithm, and the exactness of a rounding that
has nothing to round (00_scope.md R11, R17). -/

namespace Sys2Proof.Machine

/-- `pow2` is the power of two. -/
theorem pow2_eq (n : Nat) : pow2 n = 2 ^ n := by
  rw [pow2, ← Nat.pow_mul, ← Nat.pow_add]
  congr 1
  omega

/-- `log2Below` is the binary logarithm of the numbers it covers. -/
theorem log2Below_eq (k n : Nat) (h : n < 2 ^ 2 ^ k) : log2Below k n = Nat.log2 n := by
  induction k generalizing n with
  | zero =>
    have : n = 0 ∨ n = 1 := by simp at h; omega
    rcases this with rfl | rfl <;> decide
  | succ k ih =>
    have hk : 2 ^ 2 ^ (k + 1) = 2 ^ 2 ^ k * 2 ^ 2 ^ k := by rw [← Nat.pow_add, Nat.pow_succ]; congr 1; omega
    simp only [log2Below, pow2_eq]
    split
    · next hle =>
      have hpos : 0 < 2 ^ 2 ^ k := Nat.two_pow_pos _
      have hq : n / 2 ^ 2 ^ k < 2 ^ 2 ^ k := Nat.div_lt_of_lt_mul (hk ▸ h)
      have hq1 : n / 2 ^ 2 ^ k ≠ 0 := by
        have := Nat.div_pos hle hpos
        omega
      have hn : n ≠ 0 := by omega
      rw [ih _ hq]
      symm
      rw [Nat.log2_eq_iff hn]
      obtain ⟨hlo, hhi⟩ := (Nat.log2_eq_iff hq1).mp rfl
      constructor
      · rw [Nat.pow_add]
        calc 2 ^ 2 ^ k * 2 ^ (n / 2 ^ 2 ^ k).log2 ≤ 2 ^ 2 ^ k * (n / 2 ^ 2 ^ k) := Nat.mul_le_mul_left _ hlo
          _ ≤ n := Nat.mul_div_le _ _
      · rw [Nat.add_assoc, Nat.pow_add]
        exact (Nat.div_lt_iff_lt_mul hpos).mp hhi |>.trans_eq (Nat.mul_comm _ _)
    · next hlt => exact ih n (by omega)

/-- `highBit` is the binary logarithm below `2 ^ 4096`. -/
theorem highBit_eq (n : Nat) (h : n < 2 ^ 2 ^ 12) : highBit n = Nat.log2 n := log2Below_eq 12 n h

/-- An exact quotient is not changed by the rounding to an integer. -/
theorem roundEven_exact (m d : Nat) (hd : 0 < d) : roundEven (m * d) d = m := by
  simp [roundEven, Nat.mul_div_cancel m hd, hd]

/-- A magnitude of at most 53 significant bits is not changed by the rounding: the bits are those of `m` units shifted by
`k`, where the shift is 0 or `m` has all 53 bits. -/
theorem roundMagnitude_exact (m k q : Nat) (hq : 0 < q) (hm : m < 2 ^ 53) (hk : k = 0 ∨ 2 ^ 52 ≤ m) (hk' : k ≤ 2045) :
    roundMagnitude (m * 2 ^ k * q) q = k * 2 ^ 52 + m := by
  have hbits : k * 2 ^ 52 + m ≤ fInfBits :=
    calc k * 2 ^ 52 + m ≤ 2045 * 2 ^ 52 + 2 ^ 53 := Nat.add_le_add (Nat.mul_le_mul_right _ hk') (Nat.le_of_lt hm)
      _ = fInfBits := by decide
  have hdiv : m * 2 ^ k * q / q = m * 2 ^ k := Nat.mul_div_cancel _ hq
  have hlt : m * 2 ^ k < 2 ^ 2 ^ 12 := by
    calc m * 2 ^ k < 2 ^ 53 * 2 ^ k := by
          exact Nat.mul_lt_mul_of_pos_right hm (Nat.two_pow_pos k)
      _ = 2 ^ (53 + k) := by rw [Nat.pow_add]
      _ ≤ 2 ^ 2 ^ 12 := Nat.pow_le_pow_right (by decide) (by omega)
  have hlog : Nat.log2 (m * 2 ^ k) - 52 = k := by
    rcases hk with rfl | hm52
    · have : Nat.log2 (m * 2 ^ 0) < 53 := by
        by_cases h0 : m = 0
        · subst h0; decide
        · rw [Nat.log2_lt (by simpa using h0)]; simpa using hm
      omega
    · have h0 : m * 2 ^ k ≠ 0 := by
        have := Nat.mul_pos (show 0 < m by omega) (Nat.two_pow_pos k)
        omega
      have : Nat.log2 (m * 2 ^ k) = 52 + k := by
        rw [Nat.log2_eq_iff h0]
        constructor
        · rw [Nat.pow_add]; exact Nat.mul_le_mul_right _ hm52
        · rw [show 52 + k + 1 = 53 + k by omega, Nat.pow_add]
          exact Nat.mul_lt_mul_of_pos_right hm (Nat.two_pow_pos k)
      omega
  simp only [roundMagnitude]
  rw [hdiv, highBit_eq _ hlt, hlog, pow2_eq,
    show m * 2 ^ k * q = m * (q * 2 ^ k) by ring, roundEven_exact _ _ (Nat.mul_pos hq (Nat.two_pow_pos k))]
  exact Nat.min_eq_left hbits

/-- Sign, exponent and fraction of a rounding's bits. -/
theorem fSigned_fields (neg : Bool) (bits : Nat) (h : bits < 2 ^ 63) :
    fNeg (fSigned neg bits) = neg ∧ fExp (fSigned neg bits) = bits / 2 ^ 52 ∧ fFrac (fSigned neg bits) = bits % 2 ^ 52 := by
  have hn : (fSigned neg bits).toNat = (if neg then 2 ^ 63 else 0) + bits := by
    rw [fSigned, BitVec.toNat_ofNat]
    apply Nat.mod_eq_of_lt
    split <;> omega
  refine ⟨?_, ?_, ?_⟩
  · rw [fNeg, BitVec.msb_eq_decide, hn]
    cases neg <;> simp <;> omega
  · rw [fExp, hn]; cases neg <;> simp <;> omega
  · rw [fFrac, hn]; cases neg <;> simp <;> omega

/-- A number of units with at most 53 significant bits, below the largest power, is rounded to itself. -/
theorem fRound_exact (neg : Bool) (v q a e : Nat) (hq : 0 < q) (hv : v = a * 2 ^ e) (ha : a < 2 ^ 53)
    (hlt : v < 2 ^ 2098) :
    fUnits (fRound neg (v * q) q) = (if neg then -(v : Int) else v) ∧ fExp (fRound neg (v * q) q) < 2047 ∧
      fNeg (fRound neg (v * q) q) = neg := by
  obtain ⟨m, k, hmk, hm, hk, hk'⟩ : ∃ m k, v = m * 2 ^ k ∧ m < 2 ^ 53 ∧ (k = 0 ∨ 2 ^ 52 ≤ m) ∧ k ≤ 2045 := by
    by_cases hs : v < 2 ^ 53
    · exact ⟨v, 0, by simp, hs, Or.inl rfl, by omega⟩
    · have hv0 : v ≠ 0 := by omega
      have ha0 : a ≠ 0 := by rintro rfl; simp at hv; omega
      obtain ⟨hlo, hhi⟩ := (Nat.log2_eq_iff hv0).mp rfl
      obtain ⟨alo, ahi⟩ := (Nat.log2_eq_iff ha0).mp rfl
      have hlv : Nat.log2 v = Nat.log2 a + e := by
        rw [Nat.log2_eq_iff hv0, hv]
        constructor
        · rw [Nat.pow_add]; exact Nat.mul_le_mul_right _ alo
        · rw [show Nat.log2 a + e + 1 = (Nat.log2 a + 1) + e by omega, Nat.pow_add]
          exact Nat.mul_lt_mul_of_pos_right ahi (Nat.two_pow_pos e)
      have hla : Nat.log2 a < 53 := (Nat.log2_lt ha0).mpr ha
      have hl53 : 53 ≤ Nat.log2 v := by
        rw [Nat.le_log2 hv0]; omega
      have hl2098 : Nat.log2 v < 2098 := (Nat.log2_lt hv0).mpr hlt
      refine ⟨a * 2 ^ (52 - Nat.log2 a), Nat.log2 v - 52, ?_, ?_, Or.inr ?_, by omega⟩
      · rw [Nat.mul_assoc, ← Nat.pow_add, show 52 - Nat.log2 a + (Nat.log2 v - 52) = e by omega]; exact hv
      · calc a * 2 ^ (52 - Nat.log2 a) < 2 ^ (Nat.log2 a + 1) * 2 ^ (52 - Nat.log2 a) :=
              Nat.mul_lt_mul_of_pos_right ahi (Nat.two_pow_pos _)
          _ = 2 ^ 53 := by rw [← Nat.pow_add]; congr 1; omega
      · calc 2 ^ 52 = 2 ^ Nat.log2 a * 2 ^ (52 - Nat.log2 a) := by rw [← Nat.pow_add]; congr 1; omega
          _ ≤ a * 2 ^ (52 - Nat.log2 a) := Nat.mul_le_mul_right _ alo
  have hbits : k * 2 ^ 52 + m < 2 ^ 63 := by omega
  have hr : fRound neg (v * q) q = fSigned neg (k * 2 ^ 52 + m) := by
    rw [fRound, hmk, roundMagnitude_exact m k q hq hm hk hk']; rfl
  obtain ⟨hneg, hexp, hfrac⟩ := fSigned_fields neg _ hbits
  have hmag : fMag (fSigned neg (k * 2 ^ 52 + m)) = v := by
    rw [fMag, hexp, hfrac]
    by_cases hm52 : m < 2 ^ 52
    · have hk0 : k = 0 := by omega
      subst hk0
      rw [if_pos (by omega)]
      omega
    · have hd : (k * 2 ^ 52 + m) / 2 ^ 52 = k + 1 := by omega
      have hf : (k * 2 ^ 52 + m) % 2 ^ 52 = m - 2 ^ 52 := by omega
      rw [hd, hf, if_neg (by omega), Nat.add_sub_cancel, Nat.add_sub_cancel' (by omega), pow2_eq]
      exact hmk.symm
  rw [hr]
  refine ⟨?_, by rw [hexp]; omega, hneg⟩
  rw [fUnits, hneg, hmag]

/-- `real(n)` is exact for an integer below 2^53 (00_scope.md R11). -/
theorem fUnits_fOfNat (n : Nat) (h : n < 2 ^ 53) : fUnits (fOfNat n) = n * 2 ^ 1074 ∧ fExp (fOfNat n) < 2047 := by
  have hlt : n * 2 ^ 1074 < 2 ^ 2098 :=
    calc n * 2 ^ 1074 < 2 ^ 53 * 2 ^ 1074 := Nat.mul_lt_mul_of_pos_right h (Nat.two_pow_pos _)
      _ ≤ 2 ^ 2098 := by rw [← Nat.pow_add]; exact Nat.pow_le_pow_right (by decide) (by decide)
  obtain ⟨h1, h2, -⟩ := fRound_exact false (n * 2 ^ 1074) 1 n 1074 Nat.one_pos rfl h hlt
  rw [Nat.mul_one] at h1 h2
  rw [fOfNat, pow2_eq]
  refine ⟨?_, h2⟩
  rw [h1]
  simp only [Bool.false_eq_true, if_false, Nat.cast_mul, Nat.cast_pow, Nat.cast_ofNat]


/-- A finite number is no NaN and no infinity. -/
theorem finite_class (a : Binary64) (h : fExp a < 2047) : fIsNaN a = false ∧ fIsInf a = false := by
  have : (fExp a == 2047) = false := by simp; omega
  simp [fIsNaN, fIsInf, this]

/-- The magnitude of the units. -/
theorem natAbs_fUnits (a : Binary64) : (fUnits a).natAbs = fMag a := by
  rw [fUnits]; split <;> simp

/-- A product whose exact value has at most 53 significant bits is exact. -/
theorem fMul_exact (a b : Binary64) (v c e : Nat) (ha : fExp a < 2047) (hb : fExp b < 2047)
    (hv : fMag a * fMag b = v * 2 ^ 1074) (hc : v = c * 2 ^ e) (hc' : c < 2 ^ 53) (hlt : v < 2 ^ 2098) :
    fUnits (fMul a b) = (if fNeg a != fNeg b then -(v : Int) else v) ∧ fExp (fMul a b) < 2047 ∧
      fNeg (fMul a b) = (fNeg a != fNeg b) := by
  obtain ⟨na, ia⟩ := finite_class a ha
  obtain ⟨nb, ib⟩ := finite_class b hb
  have : fMul a b = fRound (fNeg a != fNeg b) (v * 2 ^ 1074) (2 ^ 1074) := by
    rw [fMul]; simp [na, ia, nb, ib, hv, pow2_eq]
  rw [this]
  exact fRound_exact _ v _ c e (Nat.two_pow_pos _) hc hc' hlt

/-- A quotient whose exact value has at most 53 significant bits is exact. -/
theorem fDiv_exact (a b : Binary64) (v c e : Nat) (ha : fExp a < 2047) (hb : fExp b < 2047) (h0 : fMag b ≠ 0)
    (hv : fMag a * 2 ^ 1074 = v * fMag b) (hc : v = c * 2 ^ e) (hc' : c < 2 ^ 53) (hlt : v < 2 ^ 2098) :
    fUnits (fDiv a b) = (if fNeg a != fNeg b then -(v : Int) else v) ∧ fExp (fDiv a b) < 2047 ∧
      fNeg (fDiv a b) = (fNeg a != fNeg b) := by
  obtain ⟨na, ia⟩ := finite_class a ha
  obtain ⟨nb, ib⟩ := finite_class b hb
  have : fDiv a b = fRound (fNeg a != fNeg b) (v * fMag b) (fMag b) := by
    rw [fDiv]; simp [na, ia, nb, ib, hv, h0, pow2_eq]
  rw [this]
  exact fRound_exact _ v _ c e (Nat.pos_of_ne_zero h0) hc hc' hlt

/-- A sum of at most 53 significant bits is exact. -/
theorem fAdd_exact (x y : Binary64) (v c e : Nat) (hx : fExp x < 2047) (hy : fExp y < 2047)
    (hv : (fUnits x + fUnits y).natAbs = v) (hc : v = c * 2 ^ e) (hc' : c < 2 ^ 53) (hlt : v < 2 ^ 2098) :
    fUnits (fAdd x y) = fUnits x + fUnits y ∧ fExp (fAdd x y) < 2047 := by
  obtain ⟨na, ia⟩ := finite_class x hx
  obtain ⟨nb, ib⟩ := finite_class y hy
  by_cases h0 : fUnits x + fUnits y = 0
  · have : fAdd x y = fSigned (fNeg x && fNeg y) 0 := by
      rw [fAdd]; simp [na, ia, nb, ib, h0]
    rw [this, h0]
    cases fNeg x && fNeg y <;> decide
  · have : fAdd x y = fRound (decide (fUnits x + fUnits y < 0)) (v * 1) 1 := by
      rw [fAdd]; simp [na, ia, nb, ib, h0, hv]
    rw [this]
    obtain ⟨h1, h2, -⟩ := fRound_exact (decide (fUnits x + fUnits y < 0)) v 1 c e Nat.one_pos hc hc' hlt
    refine ⟨?_, h2⟩
    rw [h1]
    by_cases hs : fUnits x + fUnits y < 0
    · simp only [hs, decide_true, if_true]; omega
    · simp only [hs, decide_false, Bool.false_eq_true, if_false]; omega

end Sys2Proof.Machine
end

