-- ==== Sys2Proof/Laws/Decode.lean ====
section
/-! SUPPORT. The fields of a packed cell, and the nibbles of a byte. -/

namespace Sys2Proof

section Append

variable {n m : Nat}

/-- A slice that lies wholly in the high part of an append. -/
theorem extract_high (x : BitVec n) (y : BitVec m) (k l : Nat) :
    (x ++ y).extractLsb' (m + k) l = x.extractLsb' k l := by
  ext i hi
  simp only [BitVec.getElem_extractLsb', BitVec.getLsbD_append]
  rw [if_neg (by omega)]
  congr 1
  omega

/-- A slice that lies wholly in the low part of an append. -/
theorem extract_low (x : BitVec n) (y : BitVec m) (k l : Nat) (h : k + l ≤ m) :
    (x ++ y).extractLsb' k l = y.extractLsb' k l := by
  ext i hi
  simp only [BitVec.getElem_extractLsb', BitVec.getLsbD_append]
  rw [if_pos (by omega)]

/-- The whole of a word. -/
theorem extract_whole (x : BitVec n) : x.extractLsb' 0 n = x := by
  ext i hi
  simp

end Append

@[simp] theorem dataX_append (x y : BitVec 4) : dataX (x ++ y) = x :=
  (extract_high x y 0 4).trans (extract_whole x)

@[simp] theorem dataY_append (x y : BitVec 4) : dataY (x ++ y) = y :=
  (extract_low x y 0 4 (by decide)).trans (extract_whole y)

@[simp] theorem dataX_append_dataY (d : BitVec 8) : dataX d ++ dataY d = d := by
  revert d; decide

section Cell

variable (smp : BitVec 8) (p : BitVec 12) (c : BitVec 4) (d : BitVec 8)

@[simp] theorem cellData_packCell : cellData (packCell smp p c d) = d :=
  (extract_low (dataX smp ++ p ++ dataY smp ++ c) d 0 8 (by decide)).trans (extract_whole d)

@[simp] theorem cellCmd_packCell : cellCmd (packCell smp p c d) = c :=
  (extract_high (dataX smp ++ p ++ dataY smp ++ c) d 0 4).trans
    ((extract_low (dataX smp ++ p ++ dataY smp) c 0 4 (by decide)).trans (extract_whole c))

@[simp] theorem cellPeriod_packCell : cellPeriod (packCell smp p c d) = p :=
  (extract_high (dataX smp ++ p ++ dataY smp ++ c) d 8 12).trans
    ((extract_high (dataX smp ++ p ++ dataY smp) c 4 12).trans
      ((extract_high (dataX smp ++ p) (dataY smp) 0 12).trans
        ((extract_low (dataX smp) p 0 12 (by decide)).trans (extract_whole p))))

@[simp] theorem cellSmp_packCell : cellSmp (packCell smp p c d) = smp := by
  have hi : (packCell smp p c d).extractLsb' 28 4 = dataX smp :=
    (extract_high (dataX smp ++ p ++ dataY smp ++ c) d 20 4).trans
      ((extract_high (dataX smp ++ p ++ dataY smp) c 16 4).trans
        ((extract_high (dataX smp ++ p) (dataY smp) 12 4).trans
          ((extract_high (dataX smp) p 0 4).trans (extract_whole (dataX smp)))))
  have lo : (packCell smp p c d).extractLsb' 12 4 = dataY smp :=
    (extract_high (dataX smp ++ p ++ dataY smp ++ c) d 4 4).trans
      ((extract_high (dataX smp ++ p ++ dataY smp) c 0 4).trans
        ((extract_low (dataX smp ++ p) (dataY smp) 0 4 (by decide)).trans (extract_whole (dataY smp))))
  rw [cellSmp, hi, lo, dataX_append_dataY]

end Cell

/-- Two cells with the same fields are the same cell. -/
theorem cell_ext {w v : CellWord} (hs : cellSmp w = cellSmp v) (hp : cellPeriod w = cellPeriod v)
    (hc : cellCmd w = cellCmd v) (hd : cellData w = cellData v) : w = v := by
  have split : ∀ u : CellWord,
      u.toNat = (cellSmp u).toNat / 16 * 2 ^ 28 + (cellPeriod u).toNat * 2 ^ 16 + (cellSmp u).toNat % 16 * 2 ^ 12
        + (cellCmd u).toNat * 2 ^ 8 + (cellData u).toNat := by
    intro u
    have hu := u.isLt
    simp only [cellSmp, cellPeriod, cellCmd, cellData, BitVec.toNat_append, BitVec.extractLsb'_toNat,
      Nat.shiftRight_eq_div_pow, Nat.shiftLeft_eq]
    have or_add : ∀ a b : Nat, b < 2 ^ 4 → a * 2 ^ 4 ||| b = a * 2 ^ 4 + b := by
      intro a b hb
      rw [← Nat.shiftLeft_eq, ← Nat.shiftLeft_add_eq_or_of_lt hb]
    rw [or_add _ _ (Nat.mod_lt _ (by decide))]
    omega
  apply BitVec.eq_of_toNat_eq
  rw [split w, split v, hs, hp, hc, hd]

/-- A cell is its fields packed again. -/
@[simp] theorem packCell_fields (w : CellWord) :
    packCell (cellSmp w) (cellPeriod w) (cellCmd w) (cellData w) = w :=
  cell_ext (by simp) (by simp) (by simp) (by simp)

end Sys2Proof
end

