-- ==== Sys2Proof/Laws/State.lean ====
section
/-! SUPPORT. One lemma per field per update of the state, true by `rfl`, and reading back a voice that was written. -/

namespace Sys2Proof.Machine

variable (s : State)

/-! ### Writing a voice -/

@[simp] theorem setVoice_p (v : Voice) : (s.setVoice v).p = s.p := rfl
@[simp] theorem setVoice_m (v : Voice) : (s.setVoice v).m = s.m := rfl
@[simp] theorem setVoice_image (v : Voice) : (s.setVoice v).image = s.image := rfl
@[simp] theorem setVoice_modsize (v : Voice) : (s.setVoice v).modsize = s.modsize := rfl
@[simp] theorem setVoice_busy (v : Voice) : (s.setVoice v).busy = s.busy := rfl
@[simp] theorem setVoice_chan (v : Voice) : (s.setVoice v).chan = s.chan := rfl
@[simp] theorem setVoice_host (v : Voice) : (s.setVoice v).host = s.host := rfl
@[simp] theorem setVoice_replies (v : Voice) : (s.setVoice v).replies = s.replies := rfl

@[simp] theorem setVoice_ch (v : Voice) : (s.setVoice v).ch = s.ch.set s.chan v := rfl

@[simp] theorem setVoice_voice (v : Voice) : (s.setVoice v).voice = v := by
  simp [State.voice, State.setVoice]

@[simp] theorem setVoice_setVoice (v w : Voice) : (s.setVoice v).setVoice w = s.setVoice w := by
  simp [State.setVoice]

/-- Writing the current voice leaves every other channel's voice alone (10_state.md R21). -/
theorem setVoice_other (v : Voice) (c : Fin 28) (h : c ≠ s.chan) : (s.setVoice v).ch[c] = s.ch[c] := by
  have hne : s.chan.val ≠ c.val := fun e => h (Fin.ext e.symm)
  simp [State.setVoice, Vector.getElem_set_ne _ _ hne]

@[simp] theorem setVoice_self : s.setVoice s.voice = s := by
  simp [State.setVoice, State.voice]

@[simp] theorem onVoice_p (g : Voice → Voice) : (s.onVoice g).p = s.p := rfl
@[simp] theorem onVoice_m (g : Voice → Voice) : (s.onVoice g).m = s.m := rfl
@[simp] theorem onVoice_image (g : Voice → Voice) : (s.onVoice g).image = s.image := rfl
@[simp] theorem onVoice_modsize (g : Voice → Voice) : (s.onVoice g).modsize = s.modsize := rfl
@[simp] theorem onVoice_busy (g : Voice → Voice) : (s.onVoice g).busy = s.busy := rfl
@[simp] theorem onVoice_chan (g : Voice → Voice) : (s.onVoice g).chan = s.chan := rfl
@[simp] theorem onVoice_host (g : Voice → Voice) : (s.onVoice g).host = s.host := rfl
@[simp] theorem onVoice_replies (g : Voice → Voice) : (s.onVoice g).replies = s.replies := rfl

@[simp] theorem onVoice_voice (g : Voice → Voice) : (s.onVoice g).voice = g s.voice := by
  simp [State.onVoice]

@[simp] theorem onVoice_newTick (g : Voice → Voice) : (s.onVoice g).newTick = s.newTick := rfl

@[simp] theorem onVoice_newRow (g : Voice → Voice) : (s.onVoice g).newRow = s.newRow := rfl

/-! ### Writing the player registers -/

@[simp] theorem setPlayer_ch (q : Player) : (s.setPlayer q).ch = s.ch := rfl
@[simp] theorem setPlayer_p (q : Player) : (s.setPlayer q).p = q := rfl
@[simp] theorem setPlayer_m (q : Player) : (s.setPlayer q).m = s.m := rfl
@[simp] theorem setPlayer_image (q : Player) : (s.setPlayer q).image = s.image := rfl
@[simp] theorem setPlayer_modsize (q : Player) : (s.setPlayer q).modsize = s.modsize := rfl
@[simp] theorem setPlayer_busy (q : Player) : (s.setPlayer q).busy = s.busy := rfl
@[simp] theorem setPlayer_chan (q : Player) : (s.setPlayer q).chan = s.chan := rfl
@[simp] theorem setPlayer_host (q : Player) : (s.setPlayer q).host = s.host := rfl
@[simp] theorem setPlayer_replies (q : Player) : (s.setPlayer q).replies = s.replies := rfl

@[simp] theorem setPlayer_voice (q : Player) : (s.setPlayer q).voice = s.voice := rfl

@[simp] theorem setPlayer_self : s.setPlayer s.p = s := rfl

@[simp] theorem onPlayer_ch (g : Player → Player) : (s.onPlayer g).ch = s.ch := rfl
@[simp] theorem onPlayer_p (g : Player → Player) : (s.onPlayer g).p = g s.p := rfl
@[simp] theorem onPlayer_m (g : Player → Player) : (s.onPlayer g).m = s.m := rfl
@[simp] theorem onPlayer_image (g : Player → Player) : (s.onPlayer g).image = s.image := rfl
@[simp] theorem onPlayer_modsize (g : Player → Player) : (s.onPlayer g).modsize = s.modsize := rfl
@[simp] theorem onPlayer_busy (g : Player → Player) : (s.onPlayer g).busy = s.busy := rfl
@[simp] theorem onPlayer_chan (g : Player → Player) : (s.onPlayer g).chan = s.chan := rfl
@[simp] theorem onPlayer_host (g : Player → Player) : (s.onPlayer g).host = s.host := rfl
@[simp] theorem onPlayer_replies (g : Player → Player) : (s.onPlayer g).replies = s.replies := rfl

@[simp] theorem onPlayer_voice (g : Player → Player) : (s.onPlayer g).voice = s.voice := rfl

/-! ### Answering the host -/

@[simp] theorem answer_ch (r : Reply) : (s.answer r).ch = s.ch := rfl
@[simp] theorem answer_p (r : Reply) : (s.answer r).p = s.p := rfl
@[simp] theorem answer_m (r : Reply) : (s.answer r).m = s.m := rfl
@[simp] theorem answer_image (r : Reply) : (s.answer r).image = s.image := rfl
@[simp] theorem answer_modsize (r : Reply) : (s.answer r).modsize = s.modsize := rfl
@[simp] theorem answer_busy (r : Reply) : (s.answer r).busy = s.busy := rfl
@[simp] theorem answer_chan (r : Reply) : (s.answer r).chan = s.chan := rfl
@[simp] theorem answer_host (r : Reply) : (s.answer r).host = s.host := rfl
@[simp] theorem answer_replies (r : Reply) : (s.answer r).replies = r :: s.replies := rfl

/-! ### Marks -/

@[simp] theorem setFlag_playing (p : Player) (b : BitVec 8) : (p.setFlag b).playing = p.playing := rfl
@[simp] theorem setFlag_paused (p : Player) (b : BitVec 8) : (p.setFlag b).paused = p.paused := rfl
@[simp] theorem setFlag_repeatFlag (p : Player) (b : BitVec 8) : (p.setFlag b).repeatFlag = p.repeatFlag := rfl
@[simp] theorem setFlag_filter (p : Player) (b : BitVec 8) : (p.setFlag b).filter = p.filter := rfl
@[simp] theorem setFlag_tick (p : Player) (b : BitVec 8) : (p.setFlag b).tick = p.tick := rfl
@[simp] theorem setFlag_row (p : Player) (b : BitVec 8) : (p.setFlag b).row = p.row := rfl
@[simp] theorem setFlag_songPosition (p : Player) (b : BitVec 8) : (p.setFlag b).songPosition = p.songPosition := rfl
@[simp] theorem setFlag_offset (p : Player) (b : BitVec 8) : (p.setFlag b).offset = p.offset := rfl
@[simp] theorem setFlag_speed (p : Player) (b : BitVec 8) : (p.setFlag b).speed = p.speed := rfl
@[simp] theorem setFlag_bpm (p : Player) (b : BitVec 8) : (p.setFlag b).bpm = p.bpm := rfl
@[simp] theorem setFlag_breakRow (p : Player) (b : BitVec 8) : (p.setFlag b).breakRow = p.breakRow := rfl
@[simp] theorem setFlag_patternJump (p : Player) (b : BitVec 8) : (p.setFlag b).patternJump = p.patternJump := rfl
@[simp] theorem setFlag_patternDelay (p : Player) (b : BitVec 8) : (p.setFlag b).patternDelay = p.patternDelay := rfl
@[simp] theorem setFlag_patternWait (p : Player) (b : BitVec 8) : (p.setFlag b).patternWait = p.patternWait := rfl
@[simp] theorem setFlag_sampleRate (p : Player) (b : BitVec 8) : (p.setFlag b).sampleRate = p.sampleRate := rfl
@[simp] theorem setFlag_loopRow (p : Player) (b : BitVec 8) : (p.setFlag b).loopRow = p.loopRow := rfl
@[simp] theorem setFlag_loopCount (p : Player) (b : BitVec 8) : (p.setFlag b).loopCount = p.loopCount := rfl
@[simp] theorem setFlag_endOfSong (p : Player) (b : BitVec 8) : (p.setFlag b).endOfSong = p.endOfSong := rfl
@[simp] theorem setFlag_vu (p : Player) (b : BitVec 8) : (p.setFlag b).vu = p.vu := rfl
@[simp] theorem setFlag_acc0 (p : Player) (b : BitVec 8) : (p.setFlag b).acc0 = p.acc0 := rfl
@[simp] theorem setFlag_acc1 (p : Player) (b : BitVec 8) : (p.setFlag b).acc1 = p.acc1 := rfl
@[simp] theorem setFlag_och (p : Player) (b : BitVec 8) : (p.setFlag b).och = p.och := rfl
@[simp] theorem setFlag_valid (p : Player) (b : BitVec 8) : (p.setFlag b).valid = p.valid := rfl
@[simp] theorem setFlag_err (p : Player) (b : BitVec 8) : (p.setFlag b).err = p.err := rfl
@[simp] theorem clearFlag_playing (p : Player) (b : BitVec 8) : (p.clearFlag b).playing = p.playing := rfl
@[simp] theorem clearFlag_paused (p : Player) (b : BitVec 8) : (p.clearFlag b).paused = p.paused := rfl
@[simp] theorem clearFlag_repeatFlag (p : Player) (b : BitVec 8) : (p.clearFlag b).repeatFlag = p.repeatFlag := rfl
@[simp] theorem clearFlag_filter (p : Player) (b : BitVec 8) : (p.clearFlag b).filter = p.filter := rfl
@[simp] theorem clearFlag_tick (p : Player) (b : BitVec 8) : (p.clearFlag b).tick = p.tick := rfl
@[simp] theorem clearFlag_row (p : Player) (b : BitVec 8) : (p.clearFlag b).row = p.row := rfl
@[simp] theorem clearFlag_songPosition (p : Player) (b : BitVec 8) : (p.clearFlag b).songPosition = p.songPosition := rfl
@[simp] theorem clearFlag_offset (p : Player) (b : BitVec 8) : (p.clearFlag b).offset = p.offset := rfl
@[simp] theorem clearFlag_speed (p : Player) (b : BitVec 8) : (p.clearFlag b).speed = p.speed := rfl
@[simp] theorem clearFlag_bpm (p : Player) (b : BitVec 8) : (p.clearFlag b).bpm = p.bpm := rfl
@[simp] theorem clearFlag_breakRow (p : Player) (b : BitVec 8) : (p.clearFlag b).breakRow = p.breakRow := rfl
@[simp] theorem clearFlag_patternJump (p : Player) (b : BitVec 8) : (p.clearFlag b).patternJump = p.patternJump := rfl
@[simp] theorem clearFlag_patternDelay (p : Player) (b : BitVec 8) : (p.clearFlag b).patternDelay = p.patternDelay := rfl
@[simp] theorem clearFlag_patternWait (p : Player) (b : BitVec 8) : (p.clearFlag b).patternWait = p.patternWait := rfl
@[simp] theorem clearFlag_sampleRate (p : Player) (b : BitVec 8) : (p.clearFlag b).sampleRate = p.sampleRate := rfl
@[simp] theorem clearFlag_loopRow (p : Player) (b : BitVec 8) : (p.clearFlag b).loopRow = p.loopRow := rfl
@[simp] theorem clearFlag_loopCount (p : Player) (b : BitVec 8) : (p.clearFlag b).loopCount = p.loopCount := rfl
@[simp] theorem clearFlag_endOfSong (p : Player) (b : BitVec 8) : (p.clearFlag b).endOfSong = p.endOfSong := rfl
@[simp] theorem clearFlag_vu (p : Player) (b : BitVec 8) : (p.clearFlag b).vu = p.vu := rfl
@[simp] theorem clearFlag_acc0 (p : Player) (b : BitVec 8) : (p.clearFlag b).acc0 = p.acc0 := rfl
@[simp] theorem clearFlag_acc1 (p : Player) (b : BitVec 8) : (p.clearFlag b).acc1 = p.acc1 := rfl
@[simp] theorem clearFlag_och (p : Player) (b : BitVec 8) : (p.clearFlag b).och = p.och := rfl
@[simp] theorem clearFlag_valid (p : Player) (b : BitVec 8) : (p.clearFlag b).valid = p.valid := rfl
@[simp] theorem clearFlag_err (p : Player) (b : BitVec 8) : (p.clearFlag b).err = p.err := rfl

@[simp] theorem setFlag_flags (p : Player) (b : BitVec 8) : (p.setFlag b).flags = p.flags ||| b := rfl
@[simp] theorem clearFlag_flags (p : Player) (b : BitVec 8) : (p.clearFlag b).flags = p.flags &&& ~~~b := rfl

end Sys2Proof.Machine
end

