-- ==== Sys2Proof/Laws/Exec.lean ====
section
/-! SUPPORT. For each shared operation, once, everything it can do: the row load, the choice of a handler, the note-on, the
channel step's tail, the frame's two ends. Later proofs cite these lemmas instead of unfolding the operations. -/

namespace Sys2Proof.Machine

variable (s : State)

/-! ### The row load (44_mixer.md R262, R266) -/

@[simp] theorem loadCell_p (c : BitVec 4) (d n : BitVec 8) (q : BitVec 12) : (loadCell c d n q s).p = s.p := by
  unfold loadCell; split <;> rfl
@[simp] theorem loadCell_m (c : BitVec 4) (d n : BitVec 8) (q : BitVec 12) : (loadCell c d n q s).m = s.m := by
  unfold loadCell; split <;> rfl
@[simp] theorem loadCell_image (c : BitVec 4) (d n : BitVec 8) (q : BitVec 12) : (loadCell c d n q s).image = s.image := by
  unfold loadCell; split <;> rfl
@[simp] theorem loadCell_modsize (c : BitVec 4) (d n : BitVec 8) (q : BitVec 12) : (loadCell c d n q s).modsize = s.modsize := by
  unfold loadCell; split <;> rfl
@[simp] theorem loadCell_busy (c : BitVec 4) (d n : BitVec 8) (q : BitVec 12) : (loadCell c d n q s).busy = s.busy := by
  unfold loadCell; split <;> rfl
@[simp] theorem loadCell_chan (c : BitVec 4) (d n : BitVec 8) (q : BitVec 12) : (loadCell c d n q s).chan = s.chan := by
  unfold loadCell; split <;> rfl
@[simp] theorem loadCell_host (c : BitVec 4) (d n : BitVec 8) (q : BitVec 12) : (loadCell c d n q s).host = s.host := by
  unfold loadCell; split <;> rfl
@[simp] theorem loadCell_replies (c : BitVec 4) (d n : BitVec 8) (q : BitVec 12) : (loadCell c d n q s).replies = s.replies := by
  unfold loadCell; split <;> rfl

@[simp] theorem loadCell_newTick (c : BitVec 4) (d n : BitVec 8) (q : BitVec 12) :
    (loadCell c d n q s).newTick = s.newTick := by
  simp [State.newTick]

@[simp] theorem loadCell_newRow (c : BitVec 4) (d n : BitVec 8) (q : BitVec 12) :
    (loadCell c d n q s).newRow = s.newRow := by
  simp [State.newRow]

/-- On a frame that is not a new-row frame no cell is loaded. -/
theorem loadCell_old (c : BitVec 4) (d n : BitVec 8) (q : BitVec 12) (h : s.newRow = false) :
    loadCell c d n q s = s := by
  simp [loadCell, h]

/-- On a new-row frame the voice is latched and struck. -/
theorem loadCell_new (c : BitVec 4) (d n : BitVec 8) (q : BitVec 12) (h : s.newRow = true) :
    loadCell c d n q s = s.setVoice (noteOn s.m n q (latch c d s.voice)) := by
  simp [loadCell, h, State.onVoice]

/-- The row load touches no other channel's voice. -/
theorem loadCell_other (c : BitVec 4) (d n : BitVec 8) (q : BitVec 12) (k : Fin 28) (h : k ≠ s.chan) :
    (loadCell c d n q s).ch[k] = s.ch[k] := by
  unfold loadCell
  split
  · exact setVoice_other s _ k h
  · rfl

@[simp] theorem loadDeferred_p (c : BitVec 4) (d : BitVec 8) : (loadDeferred c d s).p = s.p := by
  unfold loadDeferred; split <;> rfl
@[simp] theorem loadDeferred_m (c : BitVec 4) (d : BitVec 8) : (loadDeferred c d s).m = s.m := by
  unfold loadDeferred; split <;> rfl
@[simp] theorem loadDeferred_image (c : BitVec 4) (d : BitVec 8) : (loadDeferred c d s).image = s.image := by
  unfold loadDeferred; split <;> rfl
@[simp] theorem loadDeferred_modsize (c : BitVec 4) (d : BitVec 8) : (loadDeferred c d s).modsize = s.modsize := by
  unfold loadDeferred; split <;> rfl
@[simp] theorem loadDeferred_busy (c : BitVec 4) (d : BitVec 8) : (loadDeferred c d s).busy = s.busy := by
  unfold loadDeferred; split <;> rfl
@[simp] theorem loadDeferred_chan (c : BitVec 4) (d : BitVec 8) : (loadDeferred c d s).chan = s.chan := by
  unfold loadDeferred; split <;> rfl
@[simp] theorem loadDeferred_host (c : BitVec 4) (d : BitVec 8) : (loadDeferred c d s).host = s.host := by
  unfold loadDeferred; split <;> rfl
@[simp] theorem loadDeferred_replies (c : BitVec 4) (d : BitVec 8) : (loadDeferred c d s).replies = s.replies := by
  unfold loadDeferred; split <;> rfl

@[simp] theorem loadDeferred_newTick (c : BitVec 4) (d : BitVec 8) : (loadDeferred c d s).newTick = s.newTick := by
  simp [State.newTick]

/-- On a frame that is not a new-row frame nothing is latched. -/
theorem loadDeferred_old (c : BitVec 4) (d : BitVec 8) (h : s.newRow = false) : loadDeferred c d s = s := by
  simp [loadDeferred, h]

/-- On a new-row frame the voice is latched. -/
theorem loadDeferred_new (c : BitVec 4) (d : BitVec 8) (h : s.newRow = true) :
    loadDeferred c d s = s.setVoice (latch c d s.voice) := by
  simp [loadDeferred, h, State.onVoice]

/-- The deferred load touches no other channel's voice. -/
theorem loadDeferred_other (c : BitVec 4) (d : BitVec 8) (k : Fin 28) (h : k ≠ s.chan) :
    (loadDeferred c d s).ch[k] = s.ch[k] := by
  unfold loadDeferred
  split
  · exact setVoice_other s _ k h
  · rfl

/-! ### The choice of a handler (40_sequencer.md R165) -/

/-- On a new-tick frame at tick 0 the tick-0 handler runs. -/
theorem dispatch_tick0 (t0 t1 : State → State) (h : s.newTick = true) (h0 : s.p.tick = 0) : dispatch t0 t1 s = t0 s := by
  unfold dispatch
  rw [if_pos h, if_pos h0]

/-- On a new-tick frame at a later tick the tick>0 handler runs. -/
theorem dispatch_later (t0 t1 : State → State) (h : s.newTick = true) (h0 : s.p.tick ≠ 0) : dispatch t0 t1 s = t1 s := by
  unfold dispatch
  rw [if_pos h, if_neg h0]

/-- On another frame no handler runs. -/
theorem dispatch_none (t0 t1 : State → State) (h : s.newTick = false) : dispatch t0 t1 s = s := by
  simp [dispatch, h]

/-- What a dispatch can do: run one of the handlers, or nothing. -/
theorem dispatch_cases (t0 t1 : State → State) :
    dispatch t0 t1 s = t0 s ∨ dispatch t0 t1 s = t1 s ∨ dispatch t0 t1 s = s := by
  unfold dispatch
  split
  · split <;> simp
  · simp

/-- A property that the row load's result has and both handlers keep holds after a cell. -/
theorem runCell_keeps (P : State → Prop) (c : BitVec 4) (d n : BitVec 8) (q : BitVec 12) (t0 t1 : State → State)
    (h : P (loadCell c d n q s)) (h0 : ∀ u, P u → P (t0 u)) (h1 : ∀ u, P u → P (t1 u)) {t : State}
    (ht : runCell c d n q t0 t1 s = .next t) : P t := by
  have e : t = dispatch t0 t1 (loadCell c d n q s) := by
    simpa [runCell] using ht.symm
  rcases dispatch_cases (loadCell c d n q s) t0 t1 with e' | e' | e' <;> rw [e, e']
  · exact h0 _ h
  · exact h1 _ h
  · exact h

/-- Every instruction answers a next state: nothing in a channel step faults (60_exceptions.md R324). -/
theorem exec_answers (i : Instr) : ∃ t, exec i s = .next t := by
  cases i <;> exact ⟨_, rfl⟩

/-! ### The note-on (44_mixer.md R263 to R265) -/

/-- A cell with no period leaves the voice to the sample part alone. -/
theorem notePart_zero (v : Voice) : notePart 0 v = v := by
  simp [notePart]

/-- The note part of a porta command writes the slide target only. -/
theorem notePart_suppressed (q : BitVec 12) (v : Voice) (hq : q ≠ 0) (h : v.command = 3 ∨ v.command = 5) :
    notePart q v = { v with slideto := q } := by
  unfold notePart
  rw [if_neg hq, if_neg (by rintro ⟨h3, h5⟩; rcases h with h | h <;> contradiction)]

/-- The note part of any other command strikes the voice. -/
theorem notePart_struck (q : BitVec 12) (v : Voice) (hq : q ≠ 0) (h3 : v.command ≠ 3) (h5 : v.command ≠ 5) :
    notePart q v = { v with
      period := q, samplepos := realZero, chflags := v.chflags ||| recalcSpeed ||| recalcNote, noteon := true,
      slideto := q } := by
  unfold notePart
  rw [if_neg hq, if_pos ⟨h3, h5⟩]

/-- A sample number outside 1..31 names no sample (30_encoding.md R129). -/
theorem sampleIndex_none (n : BitVec 8) (h : n.toNat = 0 ∨ 32 ≤ n.toNat) : sampleIndex n = none := by
  unfold sampleIndex
  rw [dif_neg (by omega)]

/-- A sample number in 1..31 names the sample before it. -/
theorem sampleIndex_some (n : BitVec 8) (h1 : 1 ≤ n.toNat) (h2 : n.toNat ≤ 31) :
    sampleIndex n = some ⟨n.toNat - 1, by omega⟩ := by
  unfold sampleIndex
  rw [dif_pos ⟨h1, h2⟩]

/-! ### The channel step's tail (44_mixer.md R260) -/

@[simp] theorem channelTail_m : (channelTail s).m = s.m := by
  unfold channelTail mixSounding mixSilent; simp only; split <;> rfl
@[simp] theorem channelTail_image : (channelTail s).image = s.image := by
  unfold channelTail mixSounding mixSilent; simp only; split <;> rfl
@[simp] theorem channelTail_modsize : (channelTail s).modsize = s.modsize := by
  unfold channelTail mixSounding mixSilent; simp only; split <;> rfl
@[simp] theorem channelTail_busy : (channelTail s).busy = s.busy := by
  unfold channelTail mixSounding mixSilent; simp only; split <;> rfl
@[simp] theorem channelTail_chan : (channelTail s).chan = s.chan := by
  unfold channelTail mixSounding mixSilent; simp only; split <;> rfl
@[simp] theorem channelTail_host : (channelTail s).host = s.host := by
  unfold channelTail mixSounding mixSilent; simp only; split <;> rfl
@[simp] theorem channelTail_replies : (channelTail s).replies = s.replies := by
  unfold channelTail mixSounding mixSilent; simp only; split <;> rfl
@[simp] theorem channelHead_m : (channelHead s).m = s.m := rfl
@[simp] theorem channelHead_image : (channelHead s).image = s.image := rfl
@[simp] theorem channelHead_modsize : (channelHead s).modsize = s.modsize := rfl
@[simp] theorem channelHead_busy : (channelHead s).busy = s.busy := rfl
@[simp] theorem channelHead_chan : (channelHead s).chan = s.chan := rfl
@[simp] theorem channelHead_host : (channelHead s).host = s.host := rfl
@[simp] theorem channelHead_replies : (channelHead s).replies = s.replies := rfl
@[simp] theorem channelHead_p : (channelHead s).p = s.p := rfl

@[simp] theorem channelHead_voice : (channelHead s).voice = clearModulation s.voice := by
  simp [channelHead]

/-- A frame's end keeps everything but the marks, the loop variable and the answer (40_sequencer.md R163). -/
theorem frameEnd_eq : frameEnd s =
    { s with
      busy := false
      chan := 0
      p := { s.p with flags := s.p.flags &&& pendingMask }
      replies := .frame s.p.acc0 s.p.acc1 :: s.replies } := rfl

end Sys2Proof.Machine
end

