-- ==== Sys2Proof/Laws/Memory.lean ====
section
/-! SUPPORT. The image memory: reading after writing, the canonical form kept, and what a loaded byte string reads as. -/

namespace Sys2Proof.Machine

@[simp] theorem memLookup_nil (a : Nat) : memLookup [] a = unlistedByte := rfl

/-- Below the first address it may hold, a canonical memory lists nothing. -/
theorem memLookup_below {low : Nat} {m : Memory} (h : memWfFrom low m = true) {a : Nat} (ha : a < low) :
    memLookup m a = unlistedByte := by
  induction m generalizing low with
  | nil => rfl
  | cons c rest ih =>
    obtain ⟨x, v⟩ := c
    simp only [memWfFrom, Bool.and_eq_true, decide_eq_true_eq] at h
    have hx : x ≠ a := by omega
    simp only [memLookup, hx, if_false]
    exact ih h.2 (by omega)

/-- A canonical memory is canonical from any lower address. -/
theorem memWfFrom_mono {low low' : Nat} (hl : low' ≤ low) {m : Memory} (h : memWfFrom low m = true) :
    memWfFrom low' m = true := by
  cases m with
  | nil => rfl
  | cons c rest =>
    obtain ⟨x, v⟩ := c
    simp only [memWfFrom, Bool.and_eq_true, decide_eq_true_eq] at h ⊢
    exact ⟨⟨by omega, h.1.2⟩, h.2⟩

/-- A write keeps the canonical form. -/
theorem memWrite_wfFrom {low : Nat} {m : Memory} (h : memWfFrom low m = true) {a : Nat} (ha : low ≤ a) (b : Byte) :
    memWfFrom low (memWrite m a b) = true := by
  induction m generalizing low with
  | nil =>
    by_cases hb : b = unlistedByte
    · simp [memWrite, hb, memWfFrom]
    · simp [memWrite, hb, memWfFrom, ha]
  | cons c rest ih =>
    obtain ⟨x, v⟩ := c
    have h' := h
    simp only [memWfFrom, Bool.and_eq_true, decide_eq_true_eq, bne_iff_ne] at h
    obtain ⟨⟨hx, hv⟩, hr⟩ := h
    simp only [memWrite]
    split
    · split
      · exact h'
      · next hb => simp [memWfFrom, ha, hb, hv, hr]; omega
    · split
      · next hax =>
        split
        · exact memWfFrom_mono (by omega) hr
        · next hb => subst hax; simp [memWfFrom, ha, hb, hr]
      · simp only [memWfFrom, Bool.and_eq_true, decide_eq_true_eq, bne_iff_ne]
        exact ⟨⟨hx, hv⟩, ih hr (by omega)⟩

/-- A write keeps the canonical form. -/
theorem memWrite_wf {m : Memory} (h : m.wf = true) (a : Nat) (b : Byte) : Memory.wf (memWrite m a b) = true :=
  memWrite_wfFrom h (Nat.zero_le a) b

/-- A read of the written address gives the written byte. -/
theorem memLookup_memWrite_same {low : Nat} {m : Memory} (h : memWfFrom low m = true) (a : Nat) (b : Byte) :
    memLookup (memWrite m a b) a = b := by
  induction m generalizing low with
  | nil =>
    simp only [memWrite]
    split
    · next hb => exact hb.symm
    · simp [memLookup]
  | cons c rest ih =>
    obtain ⟨x, v⟩ := c
    simp only [memWfFrom, Bool.and_eq_true, decide_eq_true_eq] at h
    simp only [memWrite]
    split
    · next hax =>
      split
      · next hb =>
        have hx : x ≠ a := by omega
        simp only [memLookup, hx, if_false]
        rw [memLookup_below h.2 (by omega), hb]
      · simp [memLookup]
    · split
      · next hax =>
        split
        · next hb =>
          subst hax
          rw [memLookup_below h.2 (by omega), hb]
        · simp [memLookup]
      · next hax hne =>
        have hx : x ≠ a := fun e => hne e.symm
        simp only [memLookup, hx, if_false]
        exact ih h.2

/-- A write leaves every other address alone. -/
theorem memLookup_memWrite_other (m : Memory) (a : Nat) (b : Byte) {a' : Nat} (h : a' ≠ a) :
    memLookup (memWrite m a b) a' = memLookup m a' := by
  induction m with
  | nil =>
    simp only [memWrite]
    split
    · rfl
    · simp [memLookup, Ne.symm h]
  | cons c rest ih =>
    obtain ⟨x, v⟩ := c
    simp only [memWrite]
    split
    · split
      · rfl
      · simp [memLookup, Ne.symm h]
    · split
      · next hax =>
        subst hax
        split
        · simp [memLookup, Ne.symm h]
        · simp [memLookup, Ne.symm h]
      · simp only [memLookup]
        split
        · rfl
        · exact ih

/-- A loaded byte string is in canonical form. -/
theorem memOfBytes_wfFrom (base : Nat) (bs : List Byte) : memWfFrom base (memOfBytes base bs) = true := by
  induction bs generalizing base with
  | nil => rfl
  | cons b bs ih =>
    simp only [memOfBytes]
    split
    · exact memWfFrom_mono (by omega) (ih (base + 1))
    · next hb => simp [memWfFrom, hb, ih (base + 1)]

/-- A loaded byte string is in canonical form. -/
theorem memOfBytes_wf (bs : List Byte) : Memory.wf (memOfBytes 0 bs) = true := memOfBytes_wfFrom 0 bs

/-- A loaded byte string reads as its own bytes, and as 0x00 past its end (45_host_operations.md R301). -/
theorem memLookup_memOfBytes (base : Nat) (bs : List Byte) (a : Nat) :
    memLookup (memOfBytes base bs) (base + a) = bs.getD a unlistedByte := by
  induction bs generalizing base a with
  | nil => rfl
  | cons b bs ih =>
    simp only [memOfBytes]
    cases a with
    | zero =>
      split
      · next hb =>
        rw [memLookup_below (memOfBytes_wfFrom (base + 1) bs) (by omega)]
        simp [hb]
      · simp [memLookup]
    | succ a =>
      have e : base + (a + 1) = base + 1 + a := by omega
      rw [e]
      split
      · rw [ih]; simp
      · have hx : base ≠ base + 1 + a := by omega
        simp only [memLookup, hx, if_false]
        rw [ih]; simp

/-- Every address a loaded byte string lists lies within it. -/
theorem memOfBytes_lt (base : Nat) (bs : List Byte) : ∀ c ∈ memOfBytes base bs, c.1 < base + bs.length := by
  induction bs generalizing base with
  | nil => simp [memOfBytes]
  | cons b bs ih =>
    intro c hc
    have key : ∀ d ∈ memOfBytes (base + 1) bs, d.1 < base + (b :: bs).length := by
      intro d hd
      have := ih (base + 1) d hd
      simp only [List.length_cons]
      omega
    simp only [memOfBytes] at hc
    split at hc
    · exact key c hc
    · rcases List.mem_cons.mp hc with rfl | hc
      · simp
      · exact key c hc

/-- Where a write lists an address that was not listed, it is the written one. -/
theorem memWrite_mem {m : Memory} {a : Nat} {b : Byte} {c : Host.Cell} (h : c ∈ memWrite m a b) : c.1 = a ∨ c ∈ m := by
  induction m with
  | nil =>
    simp only [memWrite] at h
    split at h <;> simp_all
  | cons d rest ih =>
    obtain ⟨x, v⟩ := d
    simp only [memWrite] at h
    split at h
    · split at h
      · exact Or.inr h
      · rcases List.mem_cons.mp h with rfl | h
        · exact Or.inl rfl
        · exact Or.inr h
    · split at h
      · next hax =>
        split at h
        · exact Or.inr (List.mem_cons_of_mem _ h)
        · rcases List.mem_cons.mp h with rfl | h
          · exact Or.inl rfl
          · exact Or.inr (List.mem_cons_of_mem _ h)
      · rcases List.mem_cons.mp h with rfl | h
        · exact Or.inr (List.mem_cons_self ..)
        · rcases ih h with e | e
          · exact Or.inl e
          · exact Or.inr (List.mem_cons_of_mem _ e)

/-- A byte at or beyond `MODSIZE` reads as 0x00 (20_memory.md R82). -/
theorem memRead1_beyond (s : State) {a : Nat} (h : s.modsize.toNat ≤ a) : s.memRead1 a = 0 := by
  simp only [State.memRead1]
  rw [if_neg (by omega)]

/-- A byte below `MODSIZE` is what the image lists there. -/
theorem memRead1_within (s : State) {a : Nat} (h : a < s.modsize.toNat) : s.memRead1 a = memLookup s.image a := by
  simp only [State.memRead1, h, if_true]

/-- The memory of the reset state is in canonical form. -/
theorem reset_image_wf : State.reset.image.wf = true := rfl

end Sys2Proof.Machine
end

