-- ==== Sys2Proof/Laws/PerInstr.lean ====
section
/-! SUPPORT. The per-instruction family `EncodesItsRow`: the encoder's cell is selected by the instruction's own row of the
opcode table (30_encoding.md R133). -/

namespace Sys2Proof.Laws

/-- The bits 7:4 and up of the low twelve bits of a cell, masked: the command and the sub-command. -/
theorem mask_extended (w : CellWord) (c x y : BitVec 4) (hc : cellCmd w = c) (hd : cellData w = x ++ y) :
    w &&& 0xFF0 = (0 : BitVec 20) ++ c ++ x ++ (0 : BitVec 4) := by
  subst hc
  have hx : x = dataX (cellData w) := by rw [hd]; simp
  subst hx
  apply BitVec.eq_of_getLsbD_eq
  intro i hi
  interval_cases i <;>
    simp only [cellCmd, cellData, dataX, BitVec.getLsbD_append, BitVec.getLsbD_and, BitVec.getLsbD_extractLsb'] <;> simp

/-- The bits 11:8 of a cell, masked: the command. -/
theorem mask_primary (w : CellWord) (c : BitVec 4) (hc : cellCmd w = c) :
    w &&& 0xF00 = (0 : BitVec 20) ++ c ++ (0 : BitVec 8) := by
  subst hc
  apply BitVec.eq_of_getLsbD_eq
  intro i hi
  interval_cases i <;>
    simp only [cellCmd, BitVec.getLsbD_append, BitVec.getLsbD_and, BitVec.getLsbD_extractLsb'] <;> simp

namespace EncodesItsRow

/-- The instruction's row selects the encoder's cell. -/
def Statement (i : Instr) : Prop :=
  ∃ r ∈ opcodeRows, r.opcode = i.opcode ∧ encode i &&& r.mask = r.pattern

/-- A primary row selects a cell with its command. -/
theorem primary (w : CellWord) (c : BitVec 4) (hc : cellCmd w = c) : w &&& 0xF00 = (0 : BitVec 20) ++ c ++ (0 : BitVec 8) :=
  mask_primary w c hc

/-- An extended row selects a cell with command E and its sub-command. -/
theorem extended (w : CellWord) (x y : BitVec 4) (hc : cellCmd w = 0xE) (hd : cellData w = x ++ y) :
    w &&& 0xFF0 = (0 : BitVec 20) ++ (0xE : BitVec 4) ++ x ++ (0 : BitVec 4) :=
  mask_extended w 0xE x y hc hd

theorem arp (smp : BitVec 8) (period : BitVec 12) (x y : BitVec 4) : Statement (.arp smp period x y) :=
  ⟨⟨.arp, 0x000, 0xF00⟩, by decide, rfl, primary _ 0x0 (cellCmd_packCell _ _ _ _)⟩

theorem portup (smp : BitVec 8) (period : BitVec 12) (data : BitVec 8) : Statement (.portup smp period data) :=
  ⟨⟨.portup, 0x100, 0xF00⟩, by decide, rfl, primary _ 0x1 (cellCmd_packCell _ _ _ _)⟩

theorem portdn (smp : BitVec 8) (period : BitVec 12) (data : BitVec 8) : Statement (.portdn smp period data) :=
  ⟨⟨.portdn, 0x200, 0xF00⟩, by decide, rfl, primary _ 0x2 (cellCmd_packCell _ _ _ _)⟩

theorem toneporta (smp : BitVec 8) (period : BitVec 12) (data : BitVec 8) : Statement (.toneporta smp period data) :=
  ⟨⟨.toneporta, 0x300, 0xF00⟩, by decide, rfl, primary _ 0x3 (cellCmd_packCell _ _ _ _)⟩

theorem vibrato (smp : BitVec 8) (period : BitVec 12) (x y : BitVec 4) : Statement (.vibrato smp period x y) :=
  ⟨⟨.vibrato, 0x400, 0xF00⟩, by decide, rfl, primary _ 0x4 (cellCmd_packCell _ _ _ _)⟩

theorem tonevol (smp : BitVec 8) (period : BitVec 12) (x y : BitVec 4) : Statement (.tonevol smp period x y) :=
  ⟨⟨.tonevol, 0x500, 0xF00⟩, by decide, rfl, primary _ 0x5 (cellCmd_packCell _ _ _ _)⟩

theorem vibvol (smp : BitVec 8) (period : BitVec 12) (x y : BitVec 4) : Statement (.vibvol smp period x y) :=
  ⟨⟨.vibvol, 0x600, 0xF00⟩, by decide, rfl, primary _ 0x6 (cellCmd_packCell _ _ _ _)⟩

theorem nop7 (smp : BitVec 8) (period : BitVec 12) (data : BitVec 8) : Statement (.nop7 smp period data) :=
  ⟨⟨.nop7, 0x700, 0xF00⟩, by decide, rfl, primary _ 0x7 (cellCmd_packCell _ _ _ _)⟩

theorem nop8 (smp : BitVec 8) (period : BitVec 12) (data : BitVec 8) : Statement (.nop8 smp period data) :=
  ⟨⟨.nop8, 0x800, 0xF00⟩, by decide, rfl, primary _ 0x8 (cellCmd_packCell _ _ _ _)⟩

theorem offset (smp : BitVec 8) (period : BitVec 12) (data : BitVec 8) : Statement (.offset smp period data) :=
  ⟨⟨.offset, 0x900, 0xF00⟩, by decide, rfl, primary _ 0x9 (cellCmd_packCell _ _ _ _)⟩

theorem volslide (smp : BitVec 8) (period : BitVec 12) (x y : BitVec 4) : Statement (.volslide smp period x y) :=
  ⟨⟨.volslide, 0xA00, 0xF00⟩, by decide, rfl, primary _ 0xA (cellCmd_packCell _ _ _ _)⟩

theorem jump (smp : BitVec 8) (period : BitVec 12) (data : BitVec 8) : Statement (.jump smp period data) :=
  ⟨⟨.jump, 0xB00, 0xF00⟩, by decide, rfl, primary _ 0xB (cellCmd_packCell _ _ _ _)⟩

theorem setvol (smp : BitVec 8) (period : BitVec 12) (data : BitVec 8) : Statement (.setvol smp period data) :=
  ⟨⟨.setvol, 0xC00, 0xF00⟩, by decide, rfl, primary _ 0xC (cellCmd_packCell _ _ _ _)⟩

theorem brk (smp : BitVec 8) (period : BitVec 12) (x y : BitVec 4) : Statement (.brk smp period x y) :=
  ⟨⟨.brk, 0xD00, 0xF00⟩, by decide, rfl, primary _ 0xD (cellCmd_packCell _ _ _ _)⟩

theorem speed (smp : BitVec 8) (period : BitVec 12) (data : BitVec 8) : Statement (.speed smp period data) :=
  ⟨⟨.speed, 0xF00, 0xF00⟩, by decide, rfl, primary _ 0xF (cellCmd_packCell _ _ _ _)⟩

theorem filter (smp : BitVec 8) (period : BitVec 12) (y : BitVec 4) : Statement (.filter smp period y) :=
  ⟨⟨.filter, 0xE00, 0xFF0⟩, by decide, rfl,
    extended _ 0x0 y (cellCmd_packCell _ _ _ _) (cellData_packCell _ _ _ _)⟩

theorem fineup (smp : BitVec 8) (period : BitVec 12) (y : BitVec 4) : Statement (.fineup smp period y) :=
  ⟨⟨.fineup, 0xE10, 0xFF0⟩, by decide, rfl,
    extended _ 0x1 y (cellCmd_packCell _ _ _ _) (cellData_packCell _ _ _ _)⟩

theorem finedn (smp : BitVec 8) (period : BitVec 12) (y : BitVec 4) : Statement (.finedn smp period y) :=
  ⟨⟨.finedn, 0xE20, 0xFF0⟩, by decide, rfl,
    extended _ 0x2 y (cellCmd_packCell _ _ _ _) (cellData_packCell _ _ _ _)⟩

theorem nope3 (smp : BitVec 8) (period : BitVec 12) (y : BitVec 4) : Statement (.nope3 smp period y) :=
  ⟨⟨.nope3, 0xE30, 0xFF0⟩, by decide, rfl,
    extended _ 0x3 y (cellCmd_packCell _ _ _ _) (cellData_packCell _ _ _ _)⟩

theorem vibwave (smp : BitVec 8) (period : BitVec 12) (y : BitVec 4) : Statement (.vibwave smp period y) :=
  ⟨⟨.vibwave, 0xE40, 0xFF0⟩, by decide, rfl,
    extended _ 0x4 y (cellCmd_packCell _ _ _ _) (cellData_packCell _ _ _ _)⟩

theorem nope5 (smp : BitVec 8) (period : BitVec 12) (y : BitVec 4) : Statement (.nope5 smp period y) :=
  ⟨⟨.nope5, 0xE50, 0xFF0⟩, by decide, rfl,
    extended _ 0x5 y (cellCmd_packCell _ _ _ _) (cellData_packCell _ _ _ _)⟩

theorem loop (smp : BitVec 8) (period : BitVec 12) (y : BitVec 4) : Statement (.loop smp period y) :=
  ⟨⟨.loop, 0xE60, 0xFF0⟩, by decide, rfl,
    extended _ 0x6 y (cellCmd_packCell _ _ _ _) (cellData_packCell _ _ _ _)⟩

theorem nope7 (smp : BitVec 8) (period : BitVec 12) (y : BitVec 4) : Statement (.nope7 smp period y) :=
  ⟨⟨.nope7, 0xE70, 0xFF0⟩, by decide, rfl,
    extended _ 0x7 y (cellCmd_packCell _ _ _ _) (cellData_packCell _ _ _ _)⟩

theorem nope8 (smp : BitVec 8) (period : BitVec 12) (y : BitVec 4) : Statement (.nope8 smp period y) :=
  ⟨⟨.nope8, 0xE80, 0xFF0⟩, by decide, rfl,
    extended _ 0x8 y (cellCmd_packCell _ _ _ _) (cellData_packCell _ _ _ _)⟩

theorem retrig (smp : BitVec 8) (period : BitVec 12) (y : BitVec 4) : Statement (.retrig smp period y) :=
  ⟨⟨.retrig, 0xE90, 0xFF0⟩, by decide, rfl,
    extended _ 0x9 y (cellCmd_packCell _ _ _ _) (cellData_packCell _ _ _ _)⟩

theorem finevolup (smp : BitVec 8) (period : BitVec 12) (y : BitVec 4) : Statement (.finevolup smp period y) :=
  ⟨⟨.finevolup, 0xEA0, 0xFF0⟩, by decide, rfl,
    extended _ 0xA y (cellCmd_packCell _ _ _ _) (cellData_packCell _ _ _ _)⟩

theorem finevoldn (smp : BitVec 8) (period : BitVec 12) (y : BitVec 4) : Statement (.finevoldn smp period y) :=
  ⟨⟨.finevoldn, 0xEB0, 0xFF0⟩, by decide, rfl,
    extended _ 0xB y (cellCmd_packCell _ _ _ _) (cellData_packCell _ _ _ _)⟩

theorem cut (smp : BitVec 8) (period : BitVec 12) (y : BitVec 4) : Statement (.cut smp period y) :=
  ⟨⟨.cut, 0xEC0, 0xFF0⟩, by decide, rfl,
    extended _ 0xC y (cellCmd_packCell _ _ _ _) (cellData_packCell _ _ _ _)⟩

theorem delaynote (smp : BitVec 8) (period : BitVec 12) (y : BitVec 4) : Statement (.delaynote smp period y) :=
  ⟨⟨.delaynote, 0xED0, 0xFF0⟩, by decide, rfl,
    extended _ 0xD y (cellCmd_packCell _ _ _ _) (cellData_packCell _ _ _ _)⟩

theorem delaypat (smp : BitVec 8) (period : BitVec 12) (y : BitVec 4) : Statement (.delaypat smp period y) :=
  ⟨⟨.delaypat, 0xEE0, 0xFF0⟩, by decide, rfl,
    extended _ 0xE y (cellCmd_packCell _ _ _ _) (cellData_packCell _ _ _ _)⟩

theorem nopef (smp : BitVec 8) (period : BitVec 12) (y : BitVec 4) : Statement (.nopef smp period y) :=
  ⟨⟨.nopef, 0xEF0, 0xFF0⟩, by decide, rfl,
    extended _ 0xF y (cellCmd_packCell _ _ _ _) (cellData_packCell _ _ _ _)⟩

end EncodesItsRow

end Sys2Proof.Laws
end

