-- ==== Sys2Proof/Laws/Rounding.lean ====
section
/-! SUPPORT. What the one rounding of the real arithmetic answers, on every quotient the operations give it: the nearest
binary64 number, ties to even (00_scope.md R11, R17). -/

namespace Sys2Proof.Machine

/-- `roundEven` answers an integer at most half a unit away, an even one when it is half a unit away. -/
theorem roundEven_near (p d : Nat) (hd : 0 < d) :
    2 * p ≤ 2 * (roundEven p d * d) + d ∧ 2 * (roundEven p d * d) ≤ 2 * p + d ∧
      (2 * p = 2 * (roundEven p d * d) + d ∨ 2 * (roundEven p d * d) = 2 * p + d → roundEven p d % 2 = 0) := by
  have hp : p = p / d * d + p % d := by rw [Nat.mul_comm]; exact (Nat.div_add_mod p d).symm
  have hr := Nat.mod_lt p hd
  have hs : (p / d + 1) * d = p / d * d + d := Nat.succ_mul _ _
  simp only [roundEven]
  generalize p / d = n at *
  generalize p % d = r at *
  split
  · omega
  · split
    · omega
    · rcases Nat.mod_two_eq_zero_or_one n with h | h
      · rw [h, Nat.add_zero]; omega
      · rw [h]; omega

/-- No integer is nearer than `roundEven`'s, and one as near leaves it even. -/
theorem roundEven_nearest (p d : Nat) (hd : 0 < d) (n : Int) :
    ((roundEven p d * d : Nat) - (p : Int)).natAbs ≤ (n * d - p).natAbs ∧
      ((n * d - p).natAbs = ((roundEven p d * d : Nat) - (p : Int)).natAbs → n ≠ roundEven p d → roundEven p d % 2 = 0) := by
  obtain ⟨h1, h2, h3⟩ := roundEven_near p d hd
  generalize roundEven p d = m at *
  rcases lt_trichotomy n m with h | h | h
  · have : n * d + d ≤ (m * d : Nat) := by
      have : (n + 1) * d ≤ m * d := Int.mul_le_mul_of_nonneg_right (by omega) (by omega)
      push_cast; linarith
    constructor <;> omega
  · subst h
    constructor
    · push_cast; exact le_refl _
    · intro _ h; exact absurd rfl h
  · have : ((m * d : Nat) : Int) + d ≤ n * d := by
      have : ((m : Int) + 1) * d ≤ n * d := Int.mul_le_mul_of_nonneg_right (by omega) (by omega)
      push_cast; linarith
    constructor <;> omega

/-- The units of a finite number: an integer of 53 bits, shifted. -/
theorem fUnits_shape (x : Binary64) : ∃ (a : Int) (j : Nat), fUnits x = a * 2 ^ j ∧ a.natAbs < 2 ^ 53 := by
  have hf : fFrac x < 2 ^ 52 := Nat.mod_lt _ (Nat.two_pow_pos _)
  obtain ⟨a, j, h, ha⟩ : ∃ a j : Nat, fMag x = a * 2 ^ j ∧ a < 2 ^ 53 := by
    unfold fMag
    split
    · exact ⟨fFrac x, 0, by simp, by omega⟩
    · exact ⟨2 ^ 52 + fFrac x, fExp x - 1, by rw [pow2_eq], by omega⟩
  refine ⟨if fNeg x then -a else a, j, ?_, ?_⟩
  · unfold fUnits; rw [h]; split <;> push_cast <;> ring
  · split <;> omega

/-- What the rounding works with: the shift `k`, and where the number lies for it. -/
theorem roundMagnitude_shift (p q : Nat) (hq : 0 < q) (hlt : p < 2 ^ 2 ^ 12 * q) :
    ∃ k, roundMagnitude p q = min (k * 2 ^ 52 + roundEven p (q * 2 ^ k)) fInfBits ∧
      p < 2 ^ 53 * (q * 2 ^ k) ∧ (k = 0 ∨ 2 ^ 52 * (q * 2 ^ k) ≤ p) := by
  have hv : p / q < 2 ^ 2 ^ 12 := (Nat.div_lt_iff_lt_mul hq).mpr hlt
  refine ⟨Nat.log2 (p / q) - 52, ?_, ?_, ?_⟩
  · simp only [roundMagnitude]; rw [highBit_eq _ hv, pow2_eq]
  · have : p / q < 2 ^ 53 * 2 ^ (Nat.log2 (p / q) - 52) := by
      refine lt_of_lt_of_le Nat.lt_log2_self ?_
      rw [← Nat.pow_add]; exact Nat.pow_le_pow_right (by decide) (by omega)
    have := (Nat.div_lt_iff_lt_mul hq).mp this
    calc p < _ := this
      _ = _ := by ring
  · by_cases h : Nat.log2 (p / q) ≤ 52
    · left; omega
    · right
      have h0 : p / q ≠ 0 := by intro h0; rw [h0] at h; exact h (by decide)
      have : 2 ^ 52 * 2 ^ (Nat.log2 (p / q) - 52) ≤ p / q := by
        rw [← Nat.pow_add, show 52 + (Nat.log2 (p / q) - 52) = Nat.log2 (p / q) by omega]
        exact Nat.log2_self_le h0
      have := (Nat.le_div_iff_mul_le hq).mp this
      calc _ = _ := by ring
        _ ≤ p := this

/-- The value of the bits the rounding makes: `m` units shifted by `k`. -/
theorem fMag_bits (neg : Bool) (k m : Nat) (hm : m ≤ 2 ^ 53) (hk : k = 0 ∨ 2 ^ 52 ≤ m) (hb : k * 2 ^ 52 + m < fInfBits) :
    fMag (fSigned neg (k * 2 ^ 52 + m)) = m * 2 ^ k ∧ fExp (fSigned neg (k * 2 ^ 52 + m)) < 2047 ∧
      fNeg (fSigned neg (k * 2 ^ 52 + m)) = neg ∧ (fSigned neg (k * 2 ^ 52 + m)).toNat % 2 = m % 2 := by
  have hinf : fInfBits = 2047 * 2 ^ 52 := by decide
  obtain ⟨hneg, hexp, hfrac⟩ := fSigned_fields neg (k * 2 ^ 52 + m) (by omega)
  refine ⟨?_, by rw [hexp]; omega, hneg, ?_⟩
  · rw [fMag, hexp, hfrac]
    by_cases h52 : m < 2 ^ 52
    · have hk0 : k = 0 := by omega
      subst hk0
      rw [if_pos (by omega)]; omega
    · by_cases h53 : m = 2 ^ 53
      · subst h53
        rw [show (k * 2 ^ 52 + 2 ^ 53) / 2 ^ 52 = k + 2 by omega, show (k * 2 ^ 52 + 2 ^ 53) % 2 ^ 52 = 0 by omega,
          if_neg (by omega), show k + 2 - 1 = k + 1 by omega, pow2_eq, Nat.pow_succ]
        ring
      · rw [show (k * 2 ^ 52 + m) / 2 ^ 52 = k + 1 by omega, show (k * 2 ^ 52 + m) % 2 ^ 52 = m - 2 ^ 52 by omega,
          if_neg (by omega), Nat.add_sub_cancel, Nat.add_sub_cancel' (by omega), pow2_eq]
  · rw [fSigned, BitVec.toNat_ofNat]
    split <;> omega

/-- Below the overflow threshold the bits are those of a finite number, from it on those of infinity. -/
theorem shift_bounds (p q k m : Nat) (hq : 0 < q) (hhi : p < 2 ^ 53 * (q * 2 ^ k)) (hlo : k = 0 ∨ 2 ^ 52 * (q * 2 ^ k) ≤ p)
    (hm : m = roundEven p (q * 2 ^ k)) :
    m ≤ 2 ^ 53 ∧ (k = 0 ∨ 2 ^ 52 ≤ m) ∧ (p < (2 ^ 2098 - 2 ^ 2044) * q → k * 2 ^ 52 + m < fInfBits) ∧
      ((2 ^ 2098 - 2 ^ 2044) * q ≤ p → fInfBits ≤ k * 2 ^ 52 + m) := by
  have hinf : fInfBits = 2047 * 2 ^ 52 := by decide
  have hd : 0 < q * 2 ^ k := Nat.mul_pos hq (Nat.two_pow_pos k)
  obtain ⟨h1, h2, h3⟩ := roundEven_near p _ hd
  rw [← hm] at h1 h2 h3
  have hthr : (2 ^ 2098 - 2 ^ 2044) * q = (2 ^ 54 - 1) * (q * 2 ^ 2044) := by
    rw [show (2098 : Nat) = 54 + 2044 by rfl, Nat.pow_add]
    generalize 2 ^ 2044 = t
    rw [← Nat.sub_one_mul]; ring
  have hm53 : m ≤ 2 ^ 53 := by
    by_contra h
    have : (2 ^ 53 + 1) * (q * 2 ^ k) ≤ m * (q * 2 ^ k) := Nat.mul_le_mul_right _ (by omega)
    omega
  have hm52 : k = 0 ∨ 2 ^ 52 ≤ m := by
    rcases hlo with h | h
    · exact Or.inl h
    · right
      by_contra hc
      have : (m + 1) * (q * 2 ^ k) ≤ 2 ^ 52 * (q * 2 ^ k) := Nat.mul_le_mul_right _ (by omega)
      have : (m + 1) * (q * 2 ^ k) = m * (q * 2 ^ k) + q * 2 ^ k := Nat.succ_mul _ _
      omega
  refine ⟨hm53, hm52, ?_, ?_⟩
  · intro hp
    rw [hthr] at hp
    have hk : k ≤ 2045 := by
      by_contra hc
      have : q * 2 ^ 2046 ≤ q * 2 ^ k := Nat.mul_le_mul_left _ (Nat.pow_le_pow_right (by decide) (by omega))
      have : q * 2 ^ 2046 = 4 * (q * 2 ^ 2044) := by
        rw [show (2046 : Nat) = 2044 + 2 by rfl, Nat.pow_add]; ring
      rcases hlo with h | h <;> omega
    by_cases hk' : k = 2045
    · subst hk'
      have : q * 2 ^ 2045 = 2 * (q * 2 ^ 2044) := by
        rw [show (2045 : Nat) = 2044 + 1 by rfl, Nat.pow_add]; ring
      have : m ≠ 2 ^ 53 := by
        rintro rfl
        omega
      omega
    · omega
  · intro hp
    rw [hthr] at hp
    by_cases hk : k ≤ 2044
    · exfalso
      have : q * 2 ^ k ≤ q * 2 ^ 2044 := Nat.mul_le_mul_left _ (Nat.pow_le_pow_right (by decide) hk)
      omega
    · by_cases hk' : k = 2045
      · subst hk'
        have : q * 2 ^ 2045 = 2 * (q * 2 ^ 2044) := by
          rw [show (2045 : Nat) = 2044 + 1 by rfl, Nat.pow_add]; ring
        have : 2 ^ 53 ≤ m := by
          by_contra hc
          have : m * (q * 2 ^ 2045) ≤ (2 ^ 53 - 1) * (q * 2 ^ 2045) := Nat.mul_le_mul_right _ (by omega)
          have hmm : m = 2 ^ 53 - 1 := by
            by_contra hne
            have : m * (q * 2 ^ 2045) ≤ (2 ^ 53 - 2) * (q * 2 ^ 2045) := Nat.mul_le_mul_right _ (by omega)
            omega
          have := h3 (Or.inl (by omega))
          omega
        omega
      · omega

/-- Among the numbers of 53 bits none is nearer to `p / q` units than the rounding's, and one as near leaves it even. -/
theorem shift_nearest (p q k m : Nat) (hlo : k = 0 ∨ 2 ^ 52 * (q * 2 ^ k) ≤ p) (hd : 0 < q * 2 ^ k)
    (hm : m = roundEven p (q * 2 ^ k)) (a : Int) (j : Nat) (ha : a.natAbs < 2 ^ 53) :
    ((m * 2 ^ k : Nat) * (q : Int) - p).natAbs ≤ (a * 2 ^ j * q - p).natAbs ∧
      ((a * 2 ^ j * q - p).natAbs = ((m * 2 ^ k : Nat) * (q : Int) - p).natAbs → a * 2 ^ j ≠ (m * 2 ^ k : Nat) →
        m % 2 = 0) := by
  have hmul : ((m * 2 ^ k : Nat) * (q : Int)) = (roundEven p (q * 2 ^ k) * (q * 2 ^ k) : Nat) := by
    rw [← hm]; push_cast; ring
  rw [hmul]
  by_cases hjk : k ≤ j
  · have hn : a * 2 ^ j = a * 2 ^ (j - k) * 2 ^ k := by
      rw [mul_assoc, ← pow_add, Nat.sub_add_cancel hjk]
    have hx : a * 2 ^ j * q = a * 2 ^ (j - k) * (q * 2 ^ k : Nat) := by rw [hn]; push_cast; ring
    obtain ⟨h1, h2⟩ := roundEven_nearest p _ hd (a * 2 ^ (j - k))
    rw [hx]
    refine ⟨h1, fun he hne => ?_⟩
    rw [hm]
    refine h2 he fun hc => hne ?_
    rw [hn, hc, ← hm]; push_cast; ring
  · obtain ⟨h1, -⟩ := roundEven_nearest p _ hd (2 ^ 52)
    have hp : 2 ^ 52 * (q * 2 ^ k) ≤ p := hlo.resolve_left (by omega)
    have hk : q * 2 ^ k = 2 * (q * 2 ^ (k - 1)) := by
      obtain ⟨i, rfl⟩ : ∃ i, k = i + 1 := ⟨k - 1, by omega⟩
      rw [Nat.add_sub_cancel, Nat.pow_succ]; ring
    have hj : q * 2 ^ j ≤ q * 2 ^ (k - 1) := Nat.mul_le_mul_left _ (Nat.pow_le_pow_right (by decide) (by omega))
    have hq : 0 < q * 2 ^ j := Nat.mul_pos (Nat.pos_of_mul_pos_right hd) (Nat.two_pow_pos j)
    have hx : a * 2 ^ j * q < 2 ^ 53 * (q * 2 ^ j : Nat) := by
      have : a * (q * 2 ^ j : Nat) < 2 ^ 53 * (q * 2 ^ j : Nat) :=
        Int.mul_lt_mul_of_pos_right (by omega) (by exact_mod_cast hq)
      calc _ = a * (q * 2 ^ j : Nat) := by push_cast; ring
        _ < _ := this
    constructor <;> omega

/-- The one rounding of 00_scope.md R11: `fRound` answers, with the sign it is given, what round to nearest, ties to even,
makes of `p / q` units. -/
theorem fRound_roundsTo (neg : Bool) (p q : Nat) (hq : 0 < q) (hlt : p < 2 ^ 2 ^ 12 * q) :
    RoundsTo (if neg then -(p : Int) else p) q (fRound neg p q) ∧ fNeg (fRound neg p q) = neg := by
  obtain ⟨k, hr, hhi, hlo⟩ := roundMagnitude_shift p q hq hlt
  obtain ⟨hm53, hm52, hfin, hinf⟩ := shift_bounds p q k _ hq hhi hlo rfl
  have habs : (if neg then -(p : Int) else p).natAbs = p := by split <;> simp
  by_cases hp : p < (2 ^ 2098 - 2 ^ 2044) * q
  · have hlt := hfin hp
    have hf : fRound neg p q = fSigned neg (k * 2 ^ 52 + roundEven p (q * 2 ^ k)) := by
      rw [fRound, hr, Nat.min_eq_left (Nat.le_of_lt hlt)]; rfl
    obtain ⟨hmag, hexp, hneg, hpar⟩ := fMag_bits neg k _ hm53 hm52 hlt
    rw [hf]
    refine ⟨⟨fun _ => ⟨hexp, fun x _ => ?_⟩, fun h => absurd (habs ▸ h) (Nat.not_le.mpr hp)⟩, hneg⟩
    obtain ⟨a, j, hx, ha⟩ := fUnits_shape x
    rw [hpar, hx, fUnits, hneg, hmag]
    have hd : 0 < q * 2 ^ k := Nat.mul_pos hq (Nat.two_pow_pos k)
    cases neg with
    | false => simpa using shift_nearest p q k _ hlo hd rfl a j ha
    | true =>
      obtain ⟨h1, h2⟩ := shift_nearest p q k _ hlo hd rfl (-a) j (by omega)
      generalize (roundEven p (q * 2 ^ k) * 2 ^ k : Nat) = u at *
      have e1 : (-(u : Int) * q - -(p : Int)).natAbs = ((u : Int) * q - p).natAbs := by
        rw [← Int.natAbs_neg]; congr 1; ring
      have e2 : (a * 2 ^ j * q - -(p : Int)).natAbs = (-a * 2 ^ j * q - p).natAbs := by
        rw [← Int.natAbs_neg]; congr 1; ring
      simp only [if_true, e1, e2]
      refine ⟨h1, fun he hne => h2 he fun hc => hne ?_⟩
      rw [← hc]; ring
  · have hge := hinf (Nat.not_lt.mp hp)
    have hf : fRound neg p q = fSigned neg fInfBits := by
      rw [fRound, hr, Nat.min_eq_right hge]; rfl
    obtain ⟨hneg, hexp, hfrac⟩ := fSigned_fields neg fInfBits (by decide)
    rw [hf]
    refine ⟨⟨fun h => absurd (habs ▸ h) hp, fun _ => ⟨?_, ?_⟩⟩, hneg⟩
    · rw [fIsInf, hexp, hfrac]; decide
    · have h0 : 0 < p := lt_of_lt_of_le (Nat.mul_pos (by
        rw [show (2098 : Nat) = 54 + 2044 by rfl, Nat.pow_add]
        have := Nat.two_pow_pos 2044
        omega) hq) (Nat.not_lt.mp hp)
      rw [hneg]
      cases neg <;> simp <;> omega

end Sys2Proof.Machine
end

