-- ==== Sys2Proof/Machine/Assembly.lean ====
section
/-! DEFINITION. The assembler's side of the encoding, for people and for a host's note display: note names, the line syntax
and the pseudo-instructions (30_encoding.md R130 to R132). No step uses it. -/

namespace Sys2Proof.Machine

/-- The twelve note letters (R132). -/
def noteLetters : List String := ["C-", "C#", "D-", "D#", "E-", "F-", "F#", "G-", "G#", "A-", "A#", "B-"]

/-- The name of the note of index k (R132). -/
def noteName (k : Nat) : String := noteLetters.getD (k % 12) "" ++ Nat.repr (1 + k / 12)

/-- The index of a period that stands in `PERIODTAB` exactly. -/
def exactNote (period : BitVec 12) : Option Nat := (List.range 36).find? fun k => periodTab k == period.toNat

/-- The `<note>` of a line: `---`, a note name, or a decimal period (R130). -/
def asmNote (period : BitVec 12) : String :=
  if period = 0 then "---"
  else match exactNote period with
    | some k => noteName k
    | none => Nat.repr period.toNat

/-- The `<smp>` of a line: `--` or two decimal digits (R130); a sample number above 31 is printed all the same (log 19). -/
def asmSmp (smp : BitVec 8) : String :=
  if smp = 0 then "--" else if smp.toNat < 10 then "0" ++ Nat.repr smp.toNat else Nat.repr smp.toNat

/-- One hexadecimal digit. -/
def asmHex (n : BitVec 4) : String :=
  (["0", "1", "2", "3", "4", "5", "6", "7", "8", "9", "A", "B", "C", "D", "E", "F"]).getD n.toNat ""

/-- A data byte in hexadecimal. -/
def asmByte (d : BitVec 8) : String := asmHex (dataX d) ++ asmHex (dataY d)

/-- Two nibble operands. -/
def asmPair (x y : BitVec 4) : String := asmHex x ++ "," ++ asmHex y

/-- Mnemonic and operands of an instruction (R123, R124, R130). -/
def asmEffect : Instr → String
  | .arp _ _ x y => "ARP " ++ asmPair x y
  | .portup _ _ data => "PORTUP " ++ asmByte data
  | .portdn _ _ data => "PORTDN " ++ asmByte data
  | .toneporta _ _ data => "TONEPORTA " ++ asmByte data
  | .vibrato _ _ x y => "VIBRATO " ++ asmPair x y
  | .tonevol _ _ x y => "TONEVOL " ++ asmPair x y
  | .vibvol _ _ x y => "VIBVOL " ++ asmPair x y
  | .nop7 _ _ data => "NOP7 " ++ asmByte data
  | .nop8 _ _ data => "NOP8 " ++ asmByte data
  | .offset _ _ data => "OFFSET " ++ asmByte data
  | .volslide _ _ x y => "VOLSLIDE " ++ asmPair x y
  | .jump _ _ data => "JUMP " ++ asmByte data
  | .setvol _ _ data => "SETVOL " ++ asmByte data
  | .brk _ _ x y => "BREAK " ++ asmPair x y
  | .speed _ _ data => "SPEED " ++ asmByte data
  | .filter _ _ y => "FILTER " ++ asmHex y
  | .fineup _ _ y => "FINEUP " ++ asmHex y
  | .finedn _ _ y => "FINEDN " ++ asmHex y
  | .nope3 _ _ y => "NOPE3 " ++ asmHex y
  | .vibwave _ _ y => "VIBWAVE " ++ asmHex y
  | .nope5 _ _ y => "NOPE5 " ++ asmHex y
  | .loop _ _ y => "LOOP " ++ asmHex y
  | .nope7 _ _ y => "NOPE7 " ++ asmHex y
  | .nope8 _ _ y => "NOPE8 " ++ asmHex y
  | .retrig _ _ y => "RETRIG " ++ asmHex y
  | .finevolup _ _ y => "FINEVOLUP " ++ asmHex y
  | .finevoldn _ _ y => "FINEVOLDN " ++ asmHex y
  | .cut _ _ y => "CUT " ++ asmHex y
  | .delaynote _ _ y => "DELAYNOTE " ++ asmHex y
  | .delaypat _ _ y => "DELAYPAT " ++ asmHex y
  | .nopef _ _ y => "NOPEF " ++ asmHex y

/-- The line of a cell (R130). -/
def asmLine (i : Instr) : String := asmNote i.period ++ " " ++ asmSmp i.smp ++ " " ++ asmEffect i

/-- The tracker shorthand, command digit and data byte (R130). -/
def asmShorthand (i : Instr) : String := asmHex (cellCmd (encode i)) ++ asmByte (cellData (encode i))

/-- What a shorthand's three digits mean with a sample number and a period (R130). -/
def fromShorthand (smp : BitVec 8) (period : BitVec 12) (cmd : BitVec 4) (data : BitVec 8) : Instr :=
  decodeFields smp period cmd data

/-- `NONE` (R131). -/
def pseudoNone (smp : BitVec 8) (period : BitVec 12) : Instr := .arp smp period 0 0

/-- `TEMPO n`, 33 to 255 (R131). -/
def pseudoTempo (smp : BitVec 8) (period : BitVec 12) (n : BitVec 8) : Option Instr :=
  if 33 ≤ n.toNat then some (.speed smp period n) else none

/-- `TICKS n`, 1 to 32 (R131). -/
def pseudoTicks (smp : BitVec 8) (period : BitVec 12) (n : BitVec 8) : Option Instr :=
  if 1 ≤ n.toNat ∧ n.toNat ≤ 32 then some (.speed smp period n) else none

/-- `FILTERON` (R131). -/
def pseudoFilterOn (smp : BitVec 8) (period : BitVec 12) : Instr := .filter smp period 0

/-- `FILTEROFF` (R131). -/
def pseudoFilterOff (smp : BitVec 8) (period : BitVec 12) : Instr := .filter smp period 1

/-- `LOOPSTART` (R131). -/
def pseudoLoopStart (smp : BitVec 8) (period : BitVec 12) : Instr := .loop smp period 0

/-- `LOOPBACK n`, 1 to 15 (R131). -/
def pseudoLoopBack (smp : BitVec 8) (period : BitVec 12) (n : BitVec 4) : Option Instr :=
  if n ≠ 0 then some (.loop smp period n) else none

/-- `--- -- NONE`, the empty cell (R131). -/
def emptyCell : Instr := pseudoNone 0 0

end Sys2Proof.Machine
end

