-- ==== Sys2Proof/Tests/Slice0.lean ====
section
/-! SUPPORT. Small tests, expected values from spec/95_test_vectors.md (the vector's name in each comment) or read off the
rule named; and, at the end, for every obligation with hypotheses a concrete state and operands that meet them. -/

namespace Sys2Proof.Tests

open Sys2Proof Sys2Proof.Machine

/-! ### Helpers -/

/-- The current channel's voice after an instruction. -/
def voiceAfter (o : Host.Outcome State Fault Refusal) : Voice :=
  match o with
  | .next t => t.voice
  | .fault _ => Voice.reset
  | .refused _ => Voice.reset

/-- The player registers after an instruction or a step. -/
def playerAfter (o : Host.Outcome State Fault Refusal) : Player :=
  match o with
  | .next t => t.p
  | .fault _ => Player.reset
  | .refused _ => Player.reset

/-- The answers after a step. -/
def repliesAfter (o : Host.Outcome State Fault Refusal) : List Reply :=
  match o with
  | .next t => t.replies
  | .fault _ => []
  | .refused _ => []

/-- A new-tick frame with these flags and this tick, every voice `v`. -/
def onTick (flags : BitVec 8) (tick : BitVec 6) (v : Voice) : State :=
  { State.reset with ch := Vector.replicate 28 v, p := { Player.reset with flags := flags, tick := tick } }

/-- Tick 0 of a row that is not loaded again (the second cycle of a pattern delay). -/
def atT0 (v : Voice) : State := onTick 0x01 0 v

/-- A later tick of a row. -/
def atT1 (v : Voice) : State := onTick 0x01 1 v

/-- Tick 0 with these player registers changed. -/
def atT0With (f : Player → Player) : State := { atT0 Voice.reset with p := f (atT0 Voice.reset).p }

/-- The machine with one transaction pending. -/
def pending (op : HostOp) : State := { State.reset with host := [op] }

/-- A playing machine with one transaction pending. -/
def playing (op : HostOp) : State :=
  { pending op with p := { Player.reset with valid := true, playing := true } }

/-- An image with the signature `M.K.` and these bytes before it. -/
def withImage (before after : Memory) (size : BitVec 32) : State :=
  { pending .parse with
    image := before ++ [(1080, 0x4D), (1081, 0x2E), (1082, 0x4B), (1083, 0x2E)] ++ after
    modsize := size }

/-! ### Well-formedness (45_host_operations.md R301, R304) -/

/-- SET_RATE(0) is ill formed. -/
theorem test_wf_rate_zero : (HostOp.setRate 0).wf = false := by decide
/-- SET_RATE(1) is well formed. -/
theorem test_wf_rate_one : (HostOp.setRate 1).wf = true := by decide
/-- An image of 2^32 bytes or more is ill formed. -/
theorem test_wf_image_too_long (n : Nat) (h : 2 ^ 32 ≤ n) : (HostOp.loadImage (List.replicate n 0)).wf = false :=
  decide_eq_false (by rw [List.length_replicate]; exact Nat.not_lt.mpr h)
/-- The empty image is well formed. -/
theorem test_wf_image_empty : (HostOp.loadImage []).wf = true := by decide

/-! ### Decoding: one word per row, written out from 30_encoding.md R121 to R124 (sample number 0x12, period 0xABC) -/

theorem test_decode_arp : decodeTableWord 32 0x1ABC2047 = some (.arp 0x12 0xABC 4 7) := by decide
theorem test_decode_portup : decodeTableWord 32 0x1ABC2110 = some (.portup 0x12 0xABC 0x10) := by decide
theorem test_decode_portdn : decodeTableWord 32 0x1ABC22FF = some (.portdn 0x12 0xABC 0xFF) := by decide
theorem test_decode_toneporta : decodeTableWord 32 0x1ABC2340 = some (.toneporta 0x12 0xABC 0x40) := by decide
theorem test_decode_vibrato : decodeTableWord 32 0x1ABC2484 = some (.vibrato 0x12 0xABC 8 4) := by decide
theorem test_decode_tonevol : decodeTableWord 32 0x1ABC2502 = some (.tonevol 0x12 0xABC 0 2) := by decide
theorem test_decode_vibvol : decodeTableWord 32 0x1ABC2620 = some (.vibvol 0x12 0xABC 2 0) := by decide
theorem test_decode_nop7 : decodeTableWord 32 0x1ABC2701 = some (.nop7 0x12 0xABC 0x01) := by decide
theorem test_decode_nop8 : decodeTableWord 32 0x1ABC28FE = some (.nop8 0x12 0xABC 0xFE) := by decide
theorem test_decode_offset : decodeTableWord 32 0x1ABC2902 = some (.offset 0x12 0xABC 0x02) := by decide
theorem test_decode_volslide : decodeTableWord 32 0x1ABC2A23 = some (.volslide 0x12 0xABC 2 3) := by decide
theorem test_decode_jump : decodeTableWord 32 0x1ABC2B07 = some (.jump 0x12 0xABC 0x07) := by decide
theorem test_decode_setvol : decodeTableWord 32 0x1ABC2C80 = some (.setvol 0x12 0xABC 0x80) := by decide
theorem test_decode_brk : decodeTableWord 32 0x1ABC2D23 = some (.brk 0x12 0xABC 2 3) := by decide
theorem test_decode_speed : decodeTableWord 32 0x1ABC2F7D = some (.speed 0x12 0xABC 0x7D) := by decide
theorem test_decode_filter : decodeTableWord 32 0x1ABC2E01 = some (.filter 0x12 0xABC 1) := by decide
theorem test_decode_fineup : decodeTableWord 32 0x1ABC2E15 = some (.fineup 0x12 0xABC 5) := by decide
theorem test_decode_finedn : decodeTableWord 32 0x1ABC2E2F = some (.finedn 0x12 0xABC 15) := by decide
theorem test_decode_nope3 : decodeTableWord 32 0x1ABC2E31 = some (.nope3 0x12 0xABC 1) := by decide
theorem test_decode_vibwave : decodeTableWord 32 0x1ABC2E47 = some (.vibwave 0x12 0xABC 7) := by decide
theorem test_decode_nope5 : decodeTableWord 32 0x1ABC2E5A = some (.nope5 0x12 0xABC 10) := by decide
theorem test_decode_loop : decodeTableWord 32 0x1ABC2E62 = some (.loop 0x12 0xABC 2) := by decide
theorem test_decode_nope7 : decodeTableWord 32 0x1ABC2E71 = some (.nope7 0x12 0xABC 1) := by decide
theorem test_decode_nope8 : decodeTableWord 32 0x1ABC2E83 = some (.nope8 0x12 0xABC 3) := by decide
theorem test_decode_retrig : decodeTableWord 32 0x1ABC2E93 = some (.retrig 0x12 0xABC 3) := by decide
theorem test_decode_finevolup : decodeTableWord 32 0x1ABC2EA1 = some (.finevolup 0x12 0xABC 1) := by decide
theorem test_decode_finevoldn : decodeTableWord 32 0x1ABC2EB1 = some (.finevoldn 0x12 0xABC 1) := by decide
theorem test_decode_cut : decodeTableWord 32 0x1ABC2EC2 = some (.cut 0x12 0xABC 2) := by decide
theorem test_decode_delaynote : decodeTableWord 32 0x1ABC2ED1 = some (.delaynote 0x12 0xABC 1) := by decide
theorem test_decode_delaypat : decodeTableWord 32 0x1ABC2EE2 = some (.delaypat 0x12 0xABC 2) := by decide
theorem test_decode_nopef : decodeTableWord 32 0x1ABC2EF9 = some (.nopef 0x12 0xABC 9) := by decide

/-- Three bytes are no cell (R120). -/
theorem test_decode_truncated : decode [0x01, 0xAC, 0x1C] = .error .truncated := by rfl
/-- E1, byte order: the most significant byte is stored first. -/
theorem test_decode_bytes : decode [0x01, 0xAC, 0x1C, 0x20, 0x77] = .ok (.setvol 1 428 0x20, [0x77]) := by rfl
/-- E2, encoded. -/
theorem test_encode_retrig : encode (.retrig 18 214 3) = 0x10D62E93 := by decide
/-- E8, E9: the rows these cells select. -/
theorem test_selected_rows :
    selectedRows 0x01AC1C20 = [⟨.setvol, 0xC00, 0xF00⟩] ∧ selectedRows 0x10D62E93 = [⟨.retrig, 0xE90, 0xFF0⟩] := by
  decide

/-! ### Assembly text (30_encoding.md R130 to R132; E1, E2) -/

theorem test_asm_setvol : asmLine (.setvol 1 428 0x20) = "C-2 01 SETVOL 20" := by decide +kernel
theorem test_asm_retrig : asmLine (.retrig 18 214 3) = "C-3 18 RETRIG 3" := by decide +kernel
theorem test_asm_empty : encode emptyCell = 0 := by decide

/-! ### Arithmetic and tables -/

/-- S2: the PCM values of bytes 0, 64, 127, 128, 192 and 255. -/
theorem test_pcm :
    pcm 0 = 0 ∧ pcm 0x40 = 0x3FE0000000000000 ∧ pcm 0x7F = 0x3FEFC00000000000 ∧ pcm 0x80 = 0xBFF0000000000000 ∧
      pcm 0xC0 = 0xBFE0000000000000 ∧ pcm 0xFF = 0xBF80000000000000 := by
  decide +kernel

/-- R270, period 428, finetunes 0, 7 and -8 at 44100 (section 2.7). -/
theorem test_speed_finetunes :
    speedOf (fOfNat 428) 0 44100 = 0x3FC80DA9851B51F1 ∧ speedOf (fOfNat 428) 7 44100 = 0x3FC94CE1B5CE656E ∧
      speedOf (fOfNat 428) (-8) 44100 = 0x3FC6B40F256BFB07 := by
  decide +kernel

/-- R270, periods 113, 1 and 4095 (section 2.7). -/
theorem test_speed_periods :
    speedOf (fOfNat 113) 0 8000 = 0x400F6371506FFDBD ∧ speedOf (fOfNat 1) 0 44100 = 0x40541B6BB544D67F ∧
      speedOf (fOfNat 4095) 0 44100 = 0x3F941CAD801CD84D := by
  decide +kernel

/-- The `spt` table of section 2.3 (S4 as corrected). -/
theorem test_samples_per_tick :
    samplesPerTick 44100 125 = 882 ∧ samplesPerTick 44100 33 = 3340 ∧ samplesPerTick 44100 255 = 432 ∧
      samplesPerTick 1 125 = 0 ∧ samplesPerTick 4294967295 33 = 325376310 := by
  decide

/-- The note-index table of section 2.4. -/
theorem test_note_index :
    noteOf 4095 = none ∧ noteOf 857 = none ∧ noteOf 856 = some 0 ∧ noteOf 809 = some 0 ∧ noteOf 808 = some 1 ∧
      noteOf 428 = some 12 ∧ noteOf 114 = some 34 ∧ noteOf 113 = some 35 ∧ noteOf 1 = some 35 := by
  decide

/-- 20_memory.md R102, R103: sine, ramp and square at the ends of their halves. -/
theorem test_waveforms :
    vibTab 0 16 = 127 ∧ vibTab 0 60 = -49 ∧ vibTab 1 0 = 127 ∧ vibTab 1 63 = -125 ∧ vibTab 2 31 = 127 ∧
      vibTab 2 32 = -127 := by
  decide

/-! ### Pitch effects (section 2.4) -/

/-- P12. -/
theorem test_arp_stores : (voiceAfter (exec (.arp 0 0 7 0xC) (atT0 Voice.reset))).arpeggio = 0x7C := by decide
/-- P14, tick 1: note 30 and offset 5 give 113.0. -/
theorem test_arp_cycles :
    (voiceAfter (exec (.arp 0 0 5 0) (atT1 { Voice.reset with note := 30, arpeggio := 0x50 }))).vmod
      = .set 0x405C400000000000 := by
  decide +kernel
/-- P3. -/
theorem test_portup_keeps :
    (voiceAfter (exec (.portup 0 0 0) (atT0 { Voice.reset with slidespeed := 16 }))).slidespeed = 16 := by
  decide
/-- P2. -/
theorem test_portup_clamps :
    (voiceAfter (exec (.portup 0 0 0x10) (atT1 { Voice.reset with period := 120, slidespeed := 16 }))).period = 113 := by
  decide
/-- P5. -/
theorem test_portdn_clamps :
    (voiceAfter (exec (.portdn 0 0 0x10) (atT1 { Voice.reset with period := 850, slidespeed := 16 }))).period = 856 := by
  decide
/-- P6. -/
theorem test_portdn_slides :
    (voiceAfter (exec (.portdn 0 0 0xFF) (atT1 { Voice.reset with period := 113, slidespeed := 255 }))).period = 368 := by
  decide
/-- P8, the third step: no overshoot. -/
theorem test_toneporta_stops :
    (voiceAfter (exec (.toneporta 0 0 0x10)
      (atT1 { Voice.reset with period := 218, slideto := 214, slidetospeed := 16 }))).period = 214 := by
  decide
/-- P11: no clamp to 113. -/
theorem test_toneporta_unclamped :
    (voiceAfter (exec (.toneporta 0 0 0)
      (atT1 { Voice.reset with period := 100, slideto := 50, slidetospeed := 32 }))).period = 68 := by
  decide
/-- P23, the first value 30.238095238095237 and the phase. -/
theorem test_vibrato_ramp :
    let v := voiceAfter (exec (.vibrato 0 0 4 0xF) (atT0 { Voice.reset with vibratowave := 1 }))
    v.vmod = .add 0x403E3CF3CF3CF3CF ∧ v.vibratopos = 4 := by
  decide +kernel
/-- P26, the phase wraps. -/
theorem test_vibrato_wraps :
    (voiceAfter (exec (.vibrato 0 0 0 0)
      (atT0 { Voice.reset with vibratopos := 60, vibratodepth := 2, vibratospeed := 9 }))).vibratopos = 5 := by
  decide
/-- P27, T1. -/
theorem test_tonevol :
    let v := voiceAfter (exec (.tonevol 0 0 0 2)
      (atT1 { Voice.reset with period := 250, slideto := 214, slidetospeed := 16, volume := 30 }))
    v.period = 234 ∧ v.volume = 28 := by
  decide
/-- P28, T1. -/
theorem test_vibvol :
    let v := voiceAfter (exec (.vibvol 0 0 2 0)
      (atT1 { Voice.reset with vibratodepth := 4, vibratospeed := 8, vibratopos := 8, volume := 30 }))
    v.vibratopos = 16 ∧ v.volume = 32 := by
  decide
/-- P16. -/
theorem test_fineup : (voiceAfter (exec (.fineup 0 0 5) (atT0 { Voice.reset with period := 115 }))).period = 113 := by
  decide
/-- P17. -/
theorem test_fineup_later :
    (voiceAfter (exec (.fineup 0 0 5) (atT1 { Voice.reset with period := 300 }))).period = 300 := by
  decide
/-- P20. -/
theorem test_finedn : (voiceAfter (exec (.finedn 0 0 0xF) (atT0 { Voice.reset with period := 850 }))).period = 856 := by
  decide
/-- P22. -/
theorem test_vibwave : (voiceAfter (exec (.vibwave 0 0 7) (atT0 Voice.reset))).vibratowave = 3 := by decide

/-! ### Volume and sample effects (section 2.5) -/

/-- L1. -/
theorem test_setvol_unclamped :
    (voiceAfter (exec (.setvol 0 0 0x80) (atT0 { Voice.reset with volume := 10 }))).volume = 128 := by
  decide
/-- L2. -/
theorem test_finevolup_clamps :
    (voiceAfter (exec (.finevolup 0 0 1) (atT0 { Voice.reset with volume := 128 }))).volume = 64 := by
  decide
/-- L4. -/
theorem test_finevoldn_clamps :
    (voiceAfter (exec (.finevoldn 0 0 0xF) (atT0 { Voice.reset with volume := 5 }))).volume = 0 := by
  decide
/-- L9, down: no clamp to 64. -/
theorem test_volslide_down :
    (voiceAfter (exec (.volslide 0 0 0 1) (atT1 { Voice.reset with volume := 128 }))).volume = 127 := by
  decide
/-- L8: both nibbles set. -/
theorem test_volslide_both :
    (voiceAfter (exec (.volslide 0 0 2 3) (atT1 { Voice.reset with volume := 10 }))).volume = 10 := by
  decide
/-- L10: 512.0. -/
theorem test_offset : (voiceAfter (exec (.offset 0 0 2) (atT0 Voice.reset))).samplepos = 0x4080000000000000 := by
  decide +kernel
/-- L11, tick 3. -/
theorem test_retrig_third_tick :
    (voiceAfter (exec (.retrig 0 0 3) (onTick 0x01 3 { Voice.reset with samplepos := 0x4022800000000000 }))).samplepos
      = 0 := by
  decide
/-- L12. -/
theorem test_retrig_zero :
    (voiceAfter (exec (.retrig 0 0 0) (onTick 0x01 0 { Voice.reset with samplepos := 0x4022800000000000 }))).samplepos
      = 0x4022800000000000 := by
  decide
/-- L13, tick 2. -/
theorem test_cut : (voiceAfter (exec (.cut 0 0 2) (onTick 0x01 2 { Voice.reset with volume := 33 }))).volume = 0 := by
  decide
/-- L16, the row load: no note-on. -/
theorem test_delaynote_latches :
    let v := voiceAfter (exec (.delaynote 1 214 1) (onTick 0x03 0 { Voice.reset with period := 300 }))
    v.command = 0xE ∧ v.data = 0xD1 ∧ v.noteon = false := by
  decide
/-- L16, tick 1, the cell in the image. -/
theorem test_delaynote_strikes :
    let v := voiceAfter (exec (.delaynote 0 0 1) { atT1 { Voice.reset with period := 300 } with
      image := [(1085, 0xD6), (1086, 0x1E), (1087, 0xD1)], modsize := 1088 })
    v.period = 214 ∧ v.noteon = true := by
  decide

/-! ### Flow effects (section 2.6) -/

/-- F1. -/
theorem test_break :
    let p := playerAfter (exec (.brk 0 0 2 3) (atT0With fun p => { p with songPosition := 3 }))
    p.breakRow = 23 ∧ p.patternJump = 4 ∧ p.flags = 0x11 := by
  decide
/-- F5, the BREAK after the JUMP. -/
theorem test_break_after_jump :
    let p := playerAfter (exec (.brk 0 0 1 2) (atT0With fun p => { p with patternJump := 7, flags := 0x11 }))
    p.breakRow = 12 ∧ p.patternJump = 7 := by
  decide
/-- F6, the JUMP after the BREAK. -/
theorem test_jump :
    let p := playerAfter (exec (.jump 0 0 7) (atT0With fun p => { p with breakRow := 12 }))
    p.breakRow = 0 ∧ p.patternJump = 7 := by
  decide
/-- F9. -/
theorem test_speed_ticks :
    let p := playerAfter (exec (.speed 0 0 0x20) (atT0 Voice.reset))
    p.speed = 32 ∧ p.bpm = 125 := by
  decide
/-- F10. -/
theorem test_speed_tempo :
    let p := playerAfter (exec (.speed 0 0 0x21) (atT0 Voice.reset))
    p.speed = 6 ∧ p.bpm = 33 := by
  decide
/-- F11. -/
theorem test_filter_on : (playerAfter (exec (.filter 0 0 2) (atT0 Voice.reset))).filter = true := by decide
/-- F12. -/
theorem test_filter_ignored :
    (playerAfter (exec (.filter 0 0 0) { atT0 Voice.reset with m := { Module.cleared with nch := 8 } })).filter = false := by
  decide
/-- F13. -/
theorem test_loop_marks :
    (playerAfter (exec (.loop 0 0 0) (atT0With fun p => { p with row := 17 }))).loopRow = 17 := by
  decide
/-- F14, the last pass. -/
theorem test_loop_last_pass :
    let p := playerAfter (exec (.loop 0 0 3) (atT0With fun p => { p with loopCount := 1 }))
    p.loopCount = 0 ∧ p.flags = 0x01 := by
  decide
/-- F15. -/
theorem test_delaypat : (playerAfter (exec (.delaypat 0 0 3) (atT0 Voice.reset))).patternDelay = 3 := by decide
/-- F16. -/
theorem test_delaypat_guard :
    let p := playerAfter (exec (.delaypat 0 0 5) (atT0With fun p => { p with patternDelay := 3, patternWait := 2 }))
    p.patternDelay = 3 ∧ p.patternWait = 2 := by
  decide
/-- E7: the no-op slots strike the note of their cell and do nothing else at tick 0 (30_encoding.md R127). -/
theorem test_no_op_slots :
    [Instr.nop7 0 428 0xFF, .nop8 0 428 0xFF, .nope3 0 428 15, .nope5 0 428 15, .nope7 0 428 15, .nope8 0 428 15,
        .nopef 0 428 15].all (fun i =>
      let v := voiceAfter (exec i (onTick 0x03 0 Voice.reset))
      v.period == 428 && v.volume == 64 && v.noteon) = true := by
  decide

/-! ### The sequencer (section 2.3) -/

/-- Q3. -/
theorem test_advance_tick :
    let p := advance 1 { Player.reset with offset := 882, flags := 0 }
    p.tick = 1 ∧ p.offset = 0 ∧ p.flags = 0x01 := by
  decide
/-- Q5. -/
theorem test_advance_row :
    let p := advance 1 { Player.reset with offset := 882, tick := 5, flags := 0 }
    p.row = 1 ∧ p.tick = 0 ∧ p.flags = 0x03 := by
  decide
/-- Q6. -/
theorem test_advance_end :
    let p := advance 1 { Player.reset with offset := 882, tick := 5, row := 63, flags := 0 }
    p.songPosition = 1 ∧ p.row = 0 ∧ p.endOfSong = true ∧ p.flags = 0 := by
  decide
/-- Q8. -/
theorem test_advance_loop_before_break :
    let p := advance 5 { Player.reset with
      offset := 882, tick := 5, flags := 0x50, loopRow := 4, breakRow := 9, patternJump := 2 }
    p.row = 4 ∧ p.songPosition = 0 ∧ p.flags = 0x03 ∧ p.breakRow = 9 ∧ p.patternJump = 2 := by
  decide
/-- Q9. -/
theorem test_advance_break_overflows :
    let p := advance 5 { Player.reset with offset := 882, tick := 5, flags := 0x10, breakRow := 99, patternJump := 1 }
    p.songPosition = 2 ∧ p.row = 0 ∧ p.flags = 0x07 := by
  decide
/-- Q10. -/
theorem test_advance_delay :
    let p := advance 1 { Player.reset with offset := 882, tick := 5, flags := 0, patternDelay := 2 }
    p.patternWait = 1 ∧ p.tick = 0 ∧ p.row = 0 ∧ p.flags = 0x01 := by
  decide

/-! ### The mixer (section 2.7): the sounding voice of channel 0, no new tick -/

/-- A module whose sample 1 has these values, its PCM data at address 2108. -/
def sampleModule (length loopStart loopLength : BitVec 17) : Module :=
  { Module.cleared with
    smp := Vector.replicate 31
      { Sample.cleared with length := length, loopStart := loopStart, loopLength := loopLength, volume := 64, pcmBase := 2108 } }

/-- A sounding voice at this cursor, speed 0.5, with one PCM byte in the image. -/
def sounding (m : Module) (cursor : Binary64) (volume : BitVec 8) (at_ : Nat) (b : Byte) : State :=
  { State.reset with
    m := m
    ch := Vector.replicate 28
      { Voice.reset with
        noteon := true, samplepos := cursor, samplespeed := 0x3FE0000000000000, volume := volume }
    p := { Player.reset with flags := 0 }
    image := [(2108 + at_, b)]
    modsize := 2172 }

/-- 44_mixer.md R261: a modulation left by an earlier frame is gone before the instruction. -/
theorem test_head_clears_modulation :
    (channelHead (onTick 0x01 3 { Voice.reset with vmod := .set 0x408AC00000000000 })).voice.vmod = .none := by
  decide
/-- X1: cursor 10.75, 10/128 to the left. -/
theorem test_mix_one :
    let t := channelTail (sounding (sampleModule 64 0 64) 0x4024800000000000 64 10 10)
    t.voice.samplepos = 0x4025800000000000 ∧ t.p.acc0 = 0x3FB4000000000000 ∧ t.p.acc1 = 0 := by
  decide +kernel
/-- X2: past the end, silent for one frame, then the wrap to 0.25. -/
theorem test_mix_wraps :
    let t := channelTail (sounding (sampleModule 64 0 64) 0x404FE00000000000 64 0 1)
    t.voice.samplepos = 0x3FD0000000000000 ∧ t.p.acc0 = 0 := by
  decide +kernel
/-- X6: an unlooped sample stops. -/
theorem test_mix_stops :
    (channelTail (sounding (sampleModule 8 0 0) 0x401F000000000000 64 0 1)).voice.noteon = false := by
  decide +kernel
/-- X7: volume 0 leaves +0.0. -/
theorem test_mix_volume_zero : (channelTail (sounding (sampleModule 8 0 0) 0x401B000000000000 0 7 0x80)).p.acc0 = 0 := by
  decide +kernel
/-- X8: volume 128, -2.0, no clipping. -/
theorem test_mix_no_clipping :
    (channelTail (sounding (sampleModule 8 0 0) 0x401B000000000000 128 7 0x80)).p.acc0 = 0xC000000000000000 := by
  decide +kernel

/-! ### Memory, PARSE and the host's transactions (sections 2.1, 2.8) -/

/-- M3: the missing byte reads 0. -/
theorem test_read_past_end : { State.reset with image := [(9, 0x12)], modsize := 10 }.memRead2 9 = 0x1200 := by decide
/-- Memory writes: in order, and a zero leaves no entry (20_memory.md R82). -/
theorem test_memory_write :
    memWrite (memWrite [] 5 7) 3 9 = [(3, 9), (5, 7)] ∧ memWrite [(3, 9), (5, 7)] 3 0 = [(5, 7)] := by
  decide
/-- S1: the channel counts. -/
theorem test_signatures :
    channelsOf 0x4D2E4B2E = some 4 ∧ channelsOf 0x3643484E = some 6 ∧ channelsOf 0x464C5438 = some 8 ∧
      channelsOf 0x32384348 = some 28 ∧ channelsOf 0x6D2E6B2E = none := by
  decide
/-- M7, M8, M10, S3: loops kept and dropped, on the doubled values. -/
theorem test_loops :
    normaliseLoop 20 8 200 = (8, 200) ∧ normaliseLoop 20 20 8 = (20, 8) ∧ normaliseLoop 20 4 2 = (0, 0) ∧
      normaliseLoop 10 12 6 = (0, 0) := by
  decide
/-- M16, M17, M18. -/
theorem test_cell_address :
    cellAddr 4 1 2 3 = 2152 ∧ cellAddr 4 0 63 3 = 2104 ∧ cellAddr 8 1 0 0 = 3132 ∧ cellAddr 28 0 1 0 = 1196 := by
  decide
/-- M30. -/
theorem test_parse_accepts : repliesAfter (step (withImage [] [] 1084)) = [.parsed true] := by decide +kernel
/-- M29: one byte short. -/
theorem test_parse_rejects : (playerAfter (step (withImage [] [] 1083))).err = 1 := by decide +kernel
/-- M22. -/
theorem test_parse_filter : (playerAfter (step (withImage [] [(1086, 0x0E)] 1088))).filter = true := by decide +kernel
/-- H4. -/
theorem test_set_rate_zero :
    repliesAfter (step (pending (.setRate 0))) = [.refusedTransaction] ∧
      (playerAfter (step (pending (.setRate 0)))).sampleRate = 44100 := by
  decide
/-- H8. -/
theorem test_frame_at_power_on : repliesAfter (step (pending .frame)) = [.frame 0 0] := by decide

/-- A placed cell is what the next step runs: the row load and the handler of `SETVOL 20`; the sample is empty, so the voice
stops at once (44_mixer.md R280). -/
theorem test_step_runs_placed_word :
    (match step (State.reset.withFetchWord 32 0x01AC1C20) with
      | .next t => t.ch[0].volume == 0x20 && t.ch[0].period == 428 && !t.ch[0].noteon
      | .fault _ => false
      | .refused _ => false) = true := by
  decide +kernel

/-! ### Witnesses: for each obligation with hypotheses, values that meet them, each clause at a boundary -/

/-- A frame in progress on its last but one channel, the module valid and playing. -/
def midFrame : State :=
  { State.reset with
    m := { Module.cleared with patternCount := 1 }
    p := { Player.reset with valid := true, playing := true, och := 1 }
    busy := true
    chan := 2 }

/-- A new-row and new-tick frame at tick 0 whose voice is out of range, and the last tick of a row of 6. -/
def firstTick : State := onTick 0x03 0 { Voice.reset with period := 4095, volume := 255 }

/-- The last tick of a row of 6, the voice below, at or above its target. -/
def lastTick (period slideto : BitVec 12) : State :=
  onTick 0x01 5 { Voice.reset with period := period, slideto := slideto, volume := 255 }

/-- EncodedCellDecodesToItsInstruction. -/
theorem test_witness_encode : (Instr.speed 0xFF 0xFFF 0xFF).wf = true ∧ (Instr.arp 0 0 0 0).wf = true := by decide

/-- StepExecutesTheDecodedInstruction, a new-row frame (E1 placed) and another frame (a latched E9). -/
theorem test_witness_step :
    (let s := State.reset.withFetchWord 32 0x01AC1C20;
      let a := 1084 + s.patternNow.toNat * (256 * s.m.nch.toNat) + s.p.row.toNat * (4 * s.m.nch.toNat) + s.chan.val * 4;
      s.busy = true ∧ s.newRow = true ∧ (Instr.setvol 1 428 0x20).wf = true ∧
        decode [s.memRead1 a, s.memRead1 (a + 1), s.memRead1 (a + 2), s.memRead1 (a + 3)]
          = .ok (.setvol 1 428 0x20, [])) ∧
    (let s := { onTick 0x01 3 { Voice.reset with command := 0xE, data := 0x93 } with busy := true };
      s.newRow = false ∧ decodeCell (packCell 0 0 s.voice.command s.voice.data) = .retrig 0 0 3) :=
  ⟨⟨by decide, by decide, by decide, by rfl⟩, by decide, by decide⟩

/-- PlacedWordIsTheNextInstruction. -/
theorem test_witness_placed : State.reset.image.wf = true ∧ (withImage [] [] 1084).image.wf = true := by decide

/-- LastChannelEndsTheFrame: channel 3 of 4, channel 27, and channel 2 with channel 3 to come. -/
theorem test_witness_last_channel :
    (midFrame.m.nch.toNat ≤ { midFrame with chan := 3 }.chan.val + 1) ∧
    (({ midFrame with m := { Module.cleared with nch := 28 } }.m.nch).toNat ≤ { midFrame with chan := 27 }.chan.val + 1) ∧
    ((3 : Fin 28).val = midFrame.chan.val + 1 ∧ (3 : Fin 28).val < midFrame.m.nch.toNat) := by
  decide

/-- FrameStepsAreTheFrameProcedure, FillIsThatManyFrames, OpenGateFrameAdvancesOnce: a playing machine and a FRAME. -/
theorem test_witness_open_gate :
    let s := playing .frame
    s.busy = false ∧ s.host = .frame :: [] ∧ s.m.nch ≠ 0 ∧ s.p.valid = true ∧ s.p.playing = true ∧ s.p.paused = false := by
  decide

/-- ClosedGateFrameOnlyClearsAccumulators, each of the three ways. -/
theorem test_witness_closed_gate :
    (pending .frame).busy = false ∧ (pending .frame).host = .frame :: [] ∧ (pending .frame).p.valid = false ∧
      { playing .frame with p := { (playing .frame).p with playing := false } }.p.playing = false ∧
      { playing .frame with p := { (playing .frame).p with paused := true } }.p.paused = true := by
  decide

/-- StepKeepsTheInvariant: a frame in progress meets the invariant and steps. -/
theorem test_witness_invariant : midFrame.Inv ∧ ∃ t, step midFrame = .next t := by
  refine ⟨⟨⟨?_, ?_, ?_, ?_, ?_, ?_, ?_, ?_, ?_, ?_, ?_, ?_, ?_, ?_, ?_, ?_⟩, ?_, ?_, ?_, ?_, ?_, ?_, ?_, ?_, ?_, ?_, ?_⟩,
    _, rfl⟩
  case refine_17 =>
    intro c
    rw [show midFrame.ch[c] = Voice.reset from Vector.getElem_replicate _]
    exact ⟨by decide, by decide, by decide, by decide⟩
  case refine_18 =>
    intro k
    rw [show midFrame.m.smp[k] = Sample.cleared from Vector.getElem_replicate _]
    exact ⟨by decide, by decide, by decide⟩
  case refine_19 => exact Or.inl rfl
  all_goals first | decide | exact fun _ h => absurd h List.not_mem_nil

/-- InstructionsReachOnlyTheirChannelAndSharedRegisters, NoOpSlotsOnlyLoadTheRow: an instruction answers a next state. -/
theorem test_witness_exec : ∃ t, exec (.loop 31 856 15) firstTick = .next t := ⟨_, rfl⟩

/-- ChannelStepIgnoresOtherChannels: other records in every channel but the current one. -/
theorem test_witness_channel_step :
    (midFrame.ch.set 27 { Voice.reset with period := 1 })[midFrame.chan] = midFrame.ch[midFrame.chan] ∧
      (midFrame.ch.set 27 { Voice.reset with period := 1 })[(27 : Fin 28)] ≠ midFrame.ch[(27 : Fin 28)] ∧
      ∃ t, channelStep midFrame = .next t :=
  ⟨by decide, by decide, _, rfl⟩

/-- OnlyLoadImageChangesMemory: a PARSE, and a step inside a frame. -/
theorem test_witness_memory :
    (∃ t, step (pending .parse) = .next t) ∧ (∀ bytes rest, (pending .parse).host ≠ .loadImage bytes :: rest) ∧
      (∃ t, step midFrame = .next t) ∧ midFrame.busy = true := by
  refine ⟨⟨_, rfl⟩, ?_, ⟨_, rfl⟩, rfl⟩
  intro bytes rest h
  cases h

/-- OnlyParseWritesDescriptors: a PARSE that changes the channel count. -/
theorem test_witness_descriptors :
    let s := { pending .parse with image := [(1080, 0x36), (1081, 0x43), (1082, 0x48), (1083, 0x4E)], modsize := 1084 }
    ∃ t, step s = .next t ∧ t.m ≠ s.m :=
  ⟨_, rfl, fun h => absurd (congrArg Module.nch h) (by decide +kernel)⟩

/-- SongEndIsStickyAndFreezesTheCounter: an INITIALIZE clears it, a FRAME after the end does not. -/
theorem test_witness_song_end :
    (let s := { pending .init with p := { Player.reset with endOfSong := true } };
      ∃ t, step s = .next t ∧ s.p.endOfSong = true ∧ t.p.endOfSong = false) ∧
    (let s := { playing .frame with p := { (playing .frame).p with endOfSong := true } };
      ∃ t, step s = .next t ∧ s.p.endOfSong = true ∧ ∀ rest, s.host ≠ .init :: rest) := by
  refine ⟨⟨_, rfl, rfl, rfl⟩, _, rfl, rfl, ?_⟩
  intro rest h
  cases h

/-- SettingsChangeOnlyByTheirTransactions: each setting changes. -/
theorem test_witness_settings :
    (∃ t, step (pending (.setPlaying true)) = .next t ∧ t.p.playing ≠ (pending (.setPlaying true)).p.playing) ∧
    (∃ t, step (pending (.setPaused true)) = .next t ∧ t.p.paused ≠ (pending (.setPaused true)).p.paused) ∧
    (∃ t, step (pending (.setRepeat true)) = .next t ∧ t.p.repeatFlag ≠ (pending (.setRepeat true)).p.repeatFlag) ∧
    (∃ t, step (pending (.setRate 1)) = .next t ∧ t.p.sampleRate ≠ (pending (.setRate 1)).p.sampleRate) :=
  ⟨⟨_, rfl, by decide⟩, ⟨_, rfl, by decide⟩, ⟨_, rfl, by decide⟩, _, rfl, by decide⟩

/-- RowLoadLatchesAndNotes, NoHandlerRunsBetweenTicks: frames that load, that do not, and that are no new tick. -/
theorem test_witness_frames :
    firstTick.newRow = true ∧ (lastTick 1 1).newRow = false ∧ (onTick 0x50 1 Voice.reset).newTick = false := by
  decide

/-- Every statement about one instruction: a new-tick frame at tick 0 and at the last tick. -/
theorem test_witness_ticks :
    firstTick.newTick = true ∧ firstTick.p.tick = 0 ∧ (lastTick 856 113).newTick = true ∧ (lastTick 856 113).p.tick ≠ 0 := by
  decide

/-- ArpStoresThenCyclesTheTable: the offset 0, an index at the table's end, one past it, and no interval. -/
theorem test_witness_arp :
    (let v := (loadCell 0x0 0x50 0 0 (onTick 0x01 1 { Voice.reset with note := 30, arpeggio := 0x50 })).voice;
      v.arpeggio ≠ 0 ∧ v.note.toNat + arpeggioOffset v.arpeggio 1 = 35) ∧
    (let v := (loadCell 0x0 0x60 0 0 (onTick 0x01 1 { Voice.reset with note := 30, arpeggio := 0x60 })).voice;
      v.arpeggio ≠ 0 ∧ v.note.toNat + arpeggioOffset v.arpeggio 1 = 36) ∧
    (loadCell 0x0 0x00 0 0 (lastTick 1 1)).voice.arpeggio = 0 := by
  decide

/-- TonePortaStepsTowardItsTarget, ToneVolAndVibVolSlideTheVolumeToo: a target one above, one below, and reached. -/
theorem test_witness_target :
    (let v := (loadCell 0x3 0xFF 0 0 (lastTick 855 856)).voice; v.period.toNat < v.slideto.toNat) ∧
    (let v := (loadCell 0x3 0xFF 0 0 (lastTick 856 855)).voice; v.slideto.toNat < v.period.toNat) ∧
    (let v := (loadCell 0x5 0x0F 0 0 (lastTick 856 856)).voice; v.period = v.slideto) := by
  decide

/-- DelayNoteStrikesAtItsTick, RetrigAndCutActOnTheirTicks: the tick of the operand, and another. -/
theorem test_witness_operand_tick :
    (lastTick 1 1).newTick = true ∧ (lastTick 1 1).p.tick.toNat = (5 : BitVec 4).toNat ∧
      (lastTick 1 1).p.tick.toNat ≠ (4 : BitVec 4).toNat ∧ (lastTick 1 1).p.tick.toNat % (5 : BitVec 4).toNat = 0 := by
  decide

/-- JumpAndBreakRequestAPosition: position 254, with and without a break pending. -/
theorem test_witness_break :
    (let s := atT0With fun p => { p with songPosition := 254, flags := 0x11 };
      s.newTick = true ∧ s.p.tick = 0 ∧ s.p.songPosition.toNat ≤ 254 ∧ s.p.flags.getLsbD 4 = true) ∧
    (let s := atT0With fun p => { p with songPosition := 254 };
      s.newTick = true ∧ s.p.tick = 0 ∧ s.p.songPosition.toNat ≤ 254 ∧ s.p.flags.getLsbD 4 = false) := by
  decide

/-- SpeedSetsTempoOrTicks: operands on both sides of 32, and 0. -/
theorem test_witness_speed :
    firstTick.newTick = true ∧ firstTick.p.tick = 0 ∧ 32 < (33 : BitVec 8).toNat ∧ 1 ≤ (32 : BitVec 8).toNat ∧
      (32 : BitVec 8).toNat ≤ 32 ∧ 1 ≤ (1 : BitVec 8).toNat ∧ (lastTick 1 1).p.tick ≠ 0 := by
  decide

/-- FilterFollowsTheLowBitOnFourChannels: 4 channels, and 6. -/
theorem test_witness_filter :
    firstTick.newTick = true ∧ firstTick.p.tick = 0 ∧ firstTick.m.nch = 4 ∧
      { firstTick with m := { Module.cleared with nch := 6 } }.m.nch ≠ 4 := by
  decide

/-- LoopMarksOrCountsTheRow: row 63, a mark, and a count on either loop counter. -/
theorem test_witness_loop :
    let s := atT0With fun p => { p with row := 63, loopCount := 1 }
    s.newTick = true ∧ s.p.tick = 0 ∧ s.p.row.toNat < 64 ∧ (15 : BitVec 4) ≠ 0 ∧ s.p.loopCount ≠ 0 := by
  decide

/-- DelayPatIsTakenOnce: no delay pending, and one. -/
theorem test_witness_delay :
    firstTick.newTick = true ∧ firstTick.p.tick = 0 ∧ firstTick.p.patternDelay = 0 ∧
      (atT0With fun p => { p with patternDelay := 1 }).newTick = true ∧
      (atT0With fun p => { p with patternDelay := 1 }).p.tick = 0 ∧
      (atT0With fun p => { p with patternDelay := 1 }).p.patternDelay ≠ 0 := by
  decide

/-- NoteIndexIsTheLastTablePeriodNotBelow: the periods where the clauses meet. -/
theorem test_witness_note : 856 < (857 : BitVec 12).toNat ∧ (856 : BitVec 12).toNat ≤ 856 ∧ (0 : BitVec 12).toNat ≤ 856 := by
  decide

/-- SilentVoiceAddsNothing, VuLevelsOnlyRise: the machine after reset. -/
theorem test_witness_silent :
    State.reset.voice.noteon = false ∧ fIsNaN State.reset.p.vu[State.reset.chan] = false ∧
      (27 : Fin 28) ≠ State.reset.chan := by
  decide

/-- X10's machine: as X1, the cursor at 0.25, the speed -0.5. -/
def backwards : State :=
  let s := sounding (sampleModule 64 0 64) 0x3FD0000000000000 64 10 10
  s.setVoice { s.voice with samplespeed := 0xBFE0000000000000 }

/-- SoundingVoiceMixesOneSample: a cursor at the sample's last byte (X5), one past it (X6), and a negative one (X10). -/
theorem test_witness_sounding :
    let holds := fun (s : State) (i : Int) =>
      let pos := fAdd s.voice.samplepos (channelTail s).voice.samplespeed
      s.voice.noteon = true ∧ fExp pos < 2047 ∧ i * pow2 1074 ≤ fUnits pos ∧ fUnits pos < (i + 1) * pow2 1074
    holds (sounding (sampleModule 8 0 0) 0x401B000000000000 64 7 0x80) 7 ∧
      holds (sounding (sampleModule 8 0 0) 0x401F000000000000 64 7 0x80) 8 ∧ holds backwards (-1) := by
  decide +kernel

/-- ChannelUsesTheHardPannedAccumulator: channel 0 (left) and channel 2 (right). -/
theorem test_witness_panning :
    State.reset.p.och.toNat = State.reset.chan.val / 2 % 2 ∧ (State.reset.chan.val + 1) / 2 % 2 = 0 ∧
      midFrame.p.och.toNat = midFrame.chan.val / 2 % 2 ∧ (midFrame.chan.val + 1) / 2 % 2 = 1 := by
  decide

/-- MixingPathIsExact: 2^40 and -2^40 units of 2^-13 are 2^27 and -2^27. -/
theorem test_witness_mixing :
    fExp 0x41A0000000000000 < 2047 ∧ fExp 0xC1A0000000000000 < 2047 ∧
      fUnits 0x41A0000000000000 = (2 ^ 40 : Int) * (2 ^ 256 * 2 ^ 256 * 2 ^ 256 * 2 ^ 256 * 2 ^ 37) ∧
      fUnits 0xC1A0000000000000 = (-2 ^ 40 : Int) * (2 ^ 256 * 2 ^ 256 * 2 ^ 256 * 2 ^ 256 * 2 ^ 37) ∧
      (2 ^ 40 : Int).natAbs ≤ 2 ^ 40 ∧ (-2 ^ 40 : Int).natAbs ≤ 2 ^ 40 := by
  decide +kernel

/-- MixingPathIsExact's rounding: 1.0 and 1.0 below the threshold of overflow, the largest finite number twice at it; 2.5 and
-2.5 with a sum of 0; the largest integers `real` takes. -/
theorem test_witness_rounding :
    fExp 0x3FF0000000000000 < 2047 ∧ fExp 0x7FEFFFFFFFFFFFFF < 2047 ∧ fUnits 0x3FF0000000000000 ≠ 0 ∧
      (fUnits 0x3FF0000000000000 + fUnits 0x3FF0000000000000).natAbs < (pow2 2098 - pow2 2044) * 1 ∧
      (pow2 2098 - pow2 2044) * 1 ≤ (fUnits 0x7FEFFFFFFFFFFFFF + fUnits 0x7FEFFFFFFFFFFFFF).natAbs ∧
      fUnits 0x4004000000000000 + fUnits 0xC004000000000000 = 0 ∧
      2 ^ 53 - 1 < 2 ^ 53 ∧ (-(2 ^ 53 - 1) : Int).natAbs < 2 ^ 53 := by
  decide +kernel

/-- IEEE 754, ties to even: 1 + 2^-53 is halfway and goes down to 1, and 1 + 2^-52 plus 2^-53 goes up to 1 + 2^-51. -/
theorem test_ties_to_even :
    fAdd 0x3FF0000000000000 0x3CA0000000000000 = 0x3FF0000000000000 ∧
      fAdd 0x3FF0000000000001 0x3CA0000000000000 = 0x3FF0000000000002 := by
  decide +kernel

/-- RowEndResolvesDelayLoopBreakIncrement: below the speed and at it, a delay's last wait, a delay done, and each of loop,
break and increment. -/
theorem test_witness_row_end :
    (let p := { Player.reset with tick := 5 }; p.tick.toNat < p.speed.toNat) ∧
    (let p := { Player.reset with tick := 6, patternDelay := 15, patternWait := 14 };
      p.speed.toNat ≤ p.tick.toNat ∧ p.patternDelay ≠ 0 ∧ p.patternWait.toNat < p.patternDelay.toNat) ∧
    (let p := { Player.reset with tick := 6, patternDelay := 15, patternWait := 15, flags := 0x51 };
      p.speed.toNat ≤ p.tick.toNat ∧ p.patternDelay.toNat ≤ p.patternWait.toNat ∧ p.flags.getLsbD 6 = true) ∧
    (let p := { Player.reset with tick := 6, flags := 0x11 };
      p.speed.toNat ≤ p.tick.toNat ∧ p.patternDelay = 0 ∧ p.flags.getLsbD 6 = false ∧ p.flags.getLsbD 4 = true) ∧
    (let p := { Player.reset with tick := 6, row := 254, flags := 0x01 };
      p.speed.toNat ≤ p.tick.toNat ∧ p.patternDelay = 0 ∧ p.flags.getLsbD 6 = false ∧ p.flags.getLsbD 4 = false ∧
        p.row.toNat < 255) := by
  decide

/-- PositionOverflowWrapsOrEndsTheSong, the tick accumulator with `spt` 882: the offsets `spt - 1` and `spt`, one past it, and
the last offset and tick the clause covers. -/
theorem test_witness_accumulator :
    let p := Player.reset
    882 = p.sampleRate.toNat * 60 / p.bpm.toNat / 4 / 6 ∧ 33 ≤ p.bpm.toNat ∧
      { p with offset := 881 }.offset.toNat + 1 ≤ 882 ∧ 882 < { p with offset := 882 }.offset.toNat + 1 ∧
      882 < { p with offset := 3340 }.offset.toNat + 1 ∧
      (let q := { p with offset := 0xFFFFFFFE, tick := 62 };
        q.offset.toNat < 2 ^ 32 - 1 ∧ q.tick.toNat < 63 ∧ 882 < q.offset.toNat + 1) := by
  decide

/-- R154 at the same offsets, the last after a SET_RATE has made `spt` smaller (section 2.3). -/
theorem test_advance_boundaries :
    (advanceTick { Player.reset with offset := 881 }).offset = 882 ∧
      (advanceTick { Player.reset with offset := 882 }).offset = 0 ∧
      (advanceTick { Player.reset with offset := 3340 }).tick = 1 := by
  decide

/-- PositionOverflowWrapsOrEndsTheSong: rows 63 and 64, positions on both sides of the length, with and without repeat. -/
theorem test_witness_position :
    { Player.reset with row := 63 }.row.toNat < 64 ∧
    (let p := { Player.reset with row := 64, songPosition := 510 }; 64 ≤ p.row.toNat ∧ p.songPosition.toNat ≤ 510) ∧
    { Player.reset with songPosition := 254 }.songPosition.toNat < (255 : BitVec 8).toNat ∧
    (let p := { Player.reset with songPosition := 255, repeatFlag := true };
      (255 : BitVec 8).toNat ≤ p.songPosition.toNat ∧ p.repeatFlag = true) ∧
    ((0 : BitVec 8).toNat ≤ Player.reset.songPosition.toNat ∧ Player.reset.repeatFlag = false) := by
  decide

/-- TickLastsOneMoreThanSamplesPerTick: the last tick but one of row 63, 882 frames counted. -/
theorem test_witness_tick :
    let p := { Player.reset with tick := 4, row := 63 }
    882 = p.sampleRate.toNat * 60 / p.bpm.toNat / 4 / 6 ∧ p.offset = 0 ∧ 33 ≤ p.bpm.toNat ∧
      p.tick.toNat + 1 < p.speed.toNat ∧ p.row.toNat < 64 ∧ p.songPosition.toNat < (1 : BitVec 8).toNat := by
  decide

/-- RowLastsSpeedTicks: row 62 at the fastest and the slowest speed. -/
theorem test_witness_row :
    let p := { Player.reset with row := 62, speed := 32, bpm := 33 }
    3340 = p.sampleRate.toNat * 60 / p.bpm.toNat / 4 / 6 ∧ p.offset = 0 ∧ p.tick = 0 ∧ 33 ≤ p.bpm.toNat ∧
      1 ≤ p.speed.toNat ∧ p.speed.toNat ≤ 32 ∧ p.flags &&& 0x50 = 0 ∧ p.patternDelay = 0 ∧ p.patternWait = 0 ∧
      p.row.toNat < 63 ∧ p.songPosition.toNat < (1 : BitVec 8).toNat ∧
      1 ≤ { p with speed := 1 }.speed.toNat := by
  decide

/-- ParseAcceptsExactlyTheEightSignatures: `28CH`, and no signature. -/
theorem test_witness_signature :
    { State.reset with
        image := [(1080, 0x32), (1081, 0x38), (1082, 0x43), (1083, 0x48)], modsize := 1084 }.memRead4 1080 = 0x32384348 ∧
      State.reset.memRead4 1080 = 0 := by
  decide

/-- An image whose header 1 has length 10, loop 10/4 (M8) and header 2 length 10, loop 4/2 (M6). -/
def loopedImage : State :=
  withImage [(43, 10), (47, 10), (49, 4), (73, 10), (77, 2), (79, 1)] [(1086, 0x0E), (1094, 0x0E), (1095, 0x01)] 2108

/-- ParseDecodesSampleHeaders: a successful PARSE, a loop kept at its boundary and one dropped. -/
theorem test_witness_headers :
    (parse loopedImage).p.valid = true ∧
      (let ls := 2 * (loopedImage.memRead1 47).toNat;
        2 * (loopedImage.memRead1 49).toNat ≠ 2 ∧ ls ≤ 2 * (loopedImage.memRead1 43).toNat) ∧
      2 * (loopedImage.memRead1 79).toNat = 2 := by
  decide +kernel

/-- ParseDecodesSongHeaderAndFilter: 4 channels with two filter commands, the last in channel 2; and 4 without. -/
theorem test_witness_song_header :
    (parse loopedImage).p.valid = true ∧ (parse loopedImage).m.nch = 4 ∧
      (loopedImage.memRead4 1092).toNat / 16 % 256 = 0xE0 ∧ (loopedImage.memRead4 1096).toNat / 16 % 256 ≠ 0xE0 ∧
      (parse (withImage [] [] 1084)).p.valid = true ∧ (parse (withImage [] [] 1084)).m.nch = 4 := by
  decide +kernel

/-- LoadedImageReadsBack: an image of one byte, and the empty one. -/
theorem test_witness_load :
    (pending (.loadImage [7])).busy = false ∧ (pending (.loadImage [7])).host = .loadImage [7] :: [] ∧
      [(7 : Byte)].length < 2 ^ 32 ∧ ([] : List Byte).length < 2 ^ 32 := by
  decide

/-- MemoryReadsAreBigEndian: the first address past the image. -/
theorem test_witness_past_end : (withImage [] [] 1084).modsize.toNat ≤ 1084 := by decide

/-- InitializeResetsSequencerAndVoices, SettingsAndReadsDoOnlyWhatTheySay: each transaction pending, and none. -/
theorem test_witness_transactions :
    (pending .init).busy = false ∧ (pending .init).host = .init :: [] ∧ State.reset.host = [] ∧
      (1 : BitVec 32) ≠ 0 ∧ (pending (.setRate 1)).host = .setRate 1 :: [] ∧ (pending (.setRate 0)).host = .setRate 0 :: [] ∧
      (pending (.setPlaying true)).host = .setPlaying true :: [] ∧ (pending (.setPaused true)).host = .setPaused true :: [] ∧
      (pending (.setRepeat true)).host = .setRepeat true :: [] ∧ (pending (.readState .row)).host = .readState .row :: [] ∧
      (pending (.readState (.smp 30 .finetune))).host = .readState (.smp 30 .finetune) :: [] ∧
      (pending (.readState (.voice 27 .vmod))).host = .readState (.voice 27 .vmod) :: [] ∧
      (pending .clearVu).host = .clearVu :: [] ∧ (pending .parse).host = .parse :: [] := by
  decide

end Sys2Proof.Tests
end

section
/-! PROOFS. The reach of an instruction (00_scope.md R13): what a handler may write of the state, closed under composition,
and every handler within it. -/

namespace Sys2Proof.Machine

/-- The player registers with the song's shared registers taken from `q` and some marks raised (60_exceptions.md R330). -/
def Player.withShared (p q : Player) (raised : BitVec 8) : Player :=
  { p with
    speed := q.speed
    bpm := q.bpm
    breakRow := q.breakRow
    patternJump := q.patternJump
    loopRow := q.loopRow
    loopCount := q.loopCount
    patternDelay := q.patternDelay
    patternWait := q.patternWait
    filter := q.filter
    flags := p.flags ||| raised }

/-- `p'` differs from `p` at most in the shared registers and in BREAK and LOOP raised. -/
def Player.SharedChange (p p' : Player) : Prop :=
  ∃ (q : Player) (raised : BitVec 8), raised &&& 0xAF = 0 ∧ p' = p.withShared q raised

/-- `t` differs from `s` at most in the current channel's voice and by a shared change of the player registers. -/
def State.Reaches (s t : State) : Prop :=
  ∃ (v : Voice) (p' : Player), s.p.SharedChange p' ∧ t = (s.setVoice v).setPlayer p'

/-! ### Shared changes of the player registers -/

theorem withShared_withShared (p q q' : Player) (r r' : BitVec 8) :
    (p.withShared q r).withShared q' r' = p.withShared q' (r ||| r') := by
  simp [Player.withShared, BitVec.or_assoc]

/-- A change of shared registers that raises no mark. -/
theorem sharedChange_unmarked (p q : Player) : p.SharedChange { p.withShared q 0 with flags := p.flags } :=
  ⟨q, 0, by decide, by simp [Player.withShared]⟩

theorem sharedChange_refl (p : Player) : p.SharedChange p := sharedChange_unmarked p p

theorem sharedChange_trans {p p' p'' : Player} (h : p.SharedChange p') (h' : p'.SharedChange p'') :
    p.SharedChange p'' := by
  obtain ⟨q, r, hr, rfl⟩ := h
  obtain ⟨q', r', hr', rfl⟩ := h'
  have hmask : (r ||| r') &&& 0xAF = (r &&& 0xAF) ||| (r' &&& 0xAF) := BitVec.and_or_distrib_right
  refine ⟨q', r ||| r', ?_, withShared_withShared p q q' r r'⟩
  rw [hmask, hr, hr']
  rfl

theorem requestJump_shared (d : BitVec 8) (p : Player) : p.SharedChange (requestJump d p) :=
  ⟨requestJump d p, breakBit, by decide, rfl⟩

theorem requestBreak_shared (x y : BitVec 4) (p : Player) : p.SharedChange (requestBreak x y p) :=
  ⟨requestBreak x y p, breakBit, by decide, rfl⟩

theorem setSpeed_shared (d : BitVec 8) (p : Player) : p.SharedChange (setSpeed d p) := by
  unfold setSpeed
  split
  · exact sharedChange_unmarked p { p with bpm := d }
  · split
    · exact sharedChange_unmarked p { p with speed := BitVec.ofNat 6 d.toNat }
    · exact sharedChange_refl p

theorem setFilter_shared (nch : BitVec 5) (y : BitVec 4) (p : Player) : p.SharedChange (setFilter nch y p) := by
  unfold setFilter
  split
  · exact sharedChange_unmarked p { p with filter := !y.getLsbD 0 }
  · exact sharedChange_refl p

theorem patternLoop_shared (y : BitVec 4) (p : Player) : p.SharedChange (patternLoop y p) := by
  unfold patternLoop
  split
  · exact sharedChange_unmarked p { p with loopRow := BitVec.ofNat 6 p.row.toNat }
  · split
    · exact ⟨{ p with loopCount := nextLoopCount p.loopCount y }, loopBit, by decide, rfl⟩
    · exact sharedChange_unmarked p { p with loopCount := nextLoopCount p.loopCount y }

theorem delayPattern_shared (y : BitVec 4) (p : Player) : p.SharedChange (delayPattern y p) := by
  unfold delayPattern
  split
  · exact sharedChange_unmarked p { p with patternDelay := y, patternWait := 0 }
  · exact sharedChange_refl p

/-! ### What is within reach of a channel -/

theorem reaches_refl (s : State) : s.Reaches s :=
  ⟨s.voice, s.p, sharedChange_refl s.p, by rw [setVoice_self, setPlayer_self]⟩

theorem reaches_trans {s t u : State} (h : s.Reaches t) (h' : t.Reaches u) : s.Reaches u := by
  obtain ⟨v, p, hp, rfl⟩ := h
  obtain ⟨v', p', hp', rfl⟩ := h'
  exact ⟨v', p', sharedChange_trans hp hp', by simp [State.setVoice, State.setPlayer]⟩

theorem reaches_onVoice (s : State) (g : Voice → Voice) : s.Reaches (s.onVoice g) :=
  ⟨g s.voice, s.p, sharedChange_refl s.p, rfl⟩

theorem reaches_onPlayer (s : State) (g : Player → Player) (hg : s.p.SharedChange (g s.p)) : s.Reaches (s.onPlayer g) :=
  ⟨s.voice, g s.p, hg, by rw [setVoice_self]; rfl⟩

/-- No byte of memory is within an instruction's reach. -/
theorem reaches_memRead1 {s t : State} (h : s.Reaches t) (a : Nat) : t.memRead1 a = s.memRead1 a := by
  obtain ⟨v, p, -, rfl⟩ := h
  rfl

/-! ### The row load and the handlers -/

theorem loadCell_reaches (c : BitVec 4) (d n : BitVec 8) (q : BitVec 12) (s : State) :
    s.Reaches (loadCell c d n q s) := by
  unfold loadCell
  split
  · exact reaches_onVoice s _
  · exact reaches_refl s

theorem loadDeferred_reaches (c : BitVec 4) (d : BitVec 8) (s : State) : s.Reaches (loadDeferred c d s) := by
  unfold loadDeferred
  split
  · exact reaches_onVoice s _
  · exact reaches_refl s

theorem retrigger_reaches (y : BitVec 4) (s : State) : s.Reaches (retrigger y s) := by
  unfold retrigger
  split
  · exact reaches_onVoice s _
  · exact reaches_refl s

theorem cutNote_reaches (y : BitVec 4) (s : State) : s.Reaches (cutNote y s) := by
  unfold cutNote
  split
  · exact reaches_onVoice s _
  · exact reaches_refl s

theorem delayedNote_reaches (y : BitVec 4) (s : State) : s.Reaches (delayedNote y s) := by
  unfold delayedNote
  split
  · exact reaches_onVoice s _
  · exact reaches_refl s

theorem dispatch_reaches {t0 t1 : State → State} (h0 : ∀ u : State, u.Reaches (t0 u))
    (h1 : ∀ u : State, u.Reaches (t1 u)) (s : State) : s.Reaches (dispatch t0 t1 s) := by
  rcases dispatch_cases s t0 t1 with e | e | e <;> rw [e]
  · exact h0 s
  · exact h1 s
  · exact reaches_refl s

section Cells

variable (c : BitVec 4) (d n : BitVec 8) (q : BitVec 12) (s : State)

/-- A cell whose two handlers keep to their reach keeps to it as a whole. -/
theorem runCell_reaches {t0 t1 : State → State} (h0 : ∀ u : State, u.Reaches (t0 u))
    (h1 : ∀ u : State, u.Reaches (t1 u)) :
    AnswersNext (runCell c d n q t0 t1 s) s.Reaches :=
  ⟨_, rfl, reaches_trans (loadCell_reaches c d n q s) (dispatch_reaches h0 h1 _)⟩

/-- A cell whose two handlers change the voice alone. -/
theorem runCell_voice_reaches (g0 g1 : State → Voice → Voice) :
    AnswersNext (runCell c d n q (fun u => u.onVoice (g0 u)) (fun u => u.onVoice (g1 u)) s) s.Reaches :=
  runCell_reaches c d n q s (fun u => reaches_onVoice u _) (fun u => reaches_onVoice u _)

/-- A cell whose only handler, at tick 0, changes the voice alone. -/
theorem runCell_voice0_reaches (g : Voice → Voice) :
    AnswersNext (runCell c d n q (State.onVoice g) noHandler s) s.Reaches :=
  runCell_reaches c d n q s (fun u => reaches_onVoice u g) reaches_refl

/-- A cell whose only handler, after tick 0, changes the voice alone. -/
theorem runCell_voice1_reaches (g : Voice → Voice) :
    AnswersNext (runCell c d n q noHandler (State.onVoice g) s) s.Reaches :=
  runCell_reaches c d n q s reaches_refl (fun u => reaches_onVoice u g)

/-- A cell whose only handler, at tick 0, makes a shared change of the player registers. -/
theorem runCell_player_reaches (g : State → Player → Player)
    (hg : ∀ (u : State) (p : Player), p.SharedChange (g u p)) :
    AnswersNext (runCell c d n q (fun u => u.onPlayer (g u)) noHandler s) s.Reaches :=
  runCell_reaches c d n q s (fun u => reaches_onPlayer u _ (hg u u.p)) reaches_refl

/-- A cell with no handler. -/
theorem runCell_noHandler_reaches : AnswersNext (runCell c d n q noHandler noHandler s) s.Reaches :=
  runCell_reaches c d n q s reaches_refl reaches_refl

end Cells

/-- Every instruction answers a next state within its channel's reach. -/
theorem exec_reaches (i : Instr) (s : State) : AnswersNext (exec i s) s.Reaches := by
  cases i with
  | arp smp period x y => exact runCell_voice_reaches _ _ _ _ s _ _
  | portup smp period data => exact runCell_voice_reaches _ _ _ _ s _ _
  | portdn smp period data => exact runCell_voice_reaches _ _ _ _ s _ _
  | toneporta smp period data => exact runCell_voice_reaches _ _ _ _ s _ _
  | vibrato smp period x y => exact runCell_voice_reaches _ _ _ _ s _ _
  | tonevol smp period x y => exact runCell_voice1_reaches _ _ _ _ s _
  | vibvol smp period x y => exact runCell_voice1_reaches _ _ _ _ s _
  | nop7 smp period data => exact runCell_noHandler_reaches _ _ _ _ s
  | nop8 smp period data => exact runCell_noHandler_reaches _ _ _ _ s
  | offset smp period data => exact runCell_voice0_reaches _ _ _ _ s _
  | volslide smp period x y => exact runCell_voice1_reaches _ _ _ _ s _
  | jump smp period data => exact runCell_player_reaches _ _ _ _ s _ fun _ => requestJump_shared data
  | setvol smp period data => exact runCell_voice0_reaches _ _ _ _ s _
  | brk smp period x y => exact runCell_player_reaches _ _ _ _ s _ fun _ => requestBreak_shared x y
  | speed smp period data => exact runCell_player_reaches _ _ _ _ s _ fun _ => setSpeed_shared data
  | filter smp period y => exact runCell_player_reaches _ _ _ _ s _ fun u => setFilter_shared u.m.nch y
  | fineup smp period y => exact runCell_voice0_reaches _ _ _ _ s _
  | finedn smp period y => exact runCell_voice0_reaches _ _ _ _ s _
  | nope3 smp period y => exact runCell_noHandler_reaches _ _ _ _ s
  | vibwave smp period y => exact runCell_voice0_reaches _ _ _ _ s _
  | nope5 smp period y => exact runCell_noHandler_reaches _ _ _ _ s
  | loop smp period y => exact runCell_player_reaches _ _ _ _ s _ fun _ => patternLoop_shared y
  | nope7 smp period y => exact runCell_noHandler_reaches _ _ _ _ s
  | nope8 smp period y => exact runCell_noHandler_reaches _ _ _ _ s
  | retrig smp period y => exact runCell_reaches _ _ _ _ s (retrigger_reaches y) (retrigger_reaches y)
  | finevolup smp period y => exact runCell_voice0_reaches _ _ _ _ s _
  | finevoldn smp period y => exact runCell_voice0_reaches _ _ _ _ s _
  | cut smp period y => exact runCell_reaches _ _ _ _ s (cutNote_reaches y) (cutNote_reaches y)
  | delaynote smp period y =>
    exact ⟨_, rfl, reaches_trans (loadDeferred_reaches 0xE (nibbles 0xD y) s)
      (dispatch_reaches (delayedNote_reaches y) (delayedNote_reaches y) _)⟩
  | delaypat smp period y => exact runCell_player_reaches _ _ _ _ s _ fun _ => delayPattern_shared y
  | nopef smp period y => exact runCell_noHandler_reaches _ _ _ _ s

/-- Settles O16: the one answer is within reach, and a reach written out field by field is the statement's record. -/
theorem instructionsReachOnlyTheirChannelAndSharedRegisters :
    Obligations.InstructionsReachOnlyTheirChannelAndSharedRegisters := by
  intro i s
  obtain ⟨t, ht, hreach⟩ := exec_reaches i s
  constructor
  · intro t' ht' a
    obtain rfl : t = t' := by rw [ht] at ht'; exact Host.Outcome.next.inj ht'
    exact reaches_memRead1 hreach a
  · obtain ⟨v, p', ⟨q, raised, hraised, rfl⟩, rfl⟩ := hreach
    exact ⟨v, q, raised, hraised, ht⟩

end Sys2Proof.Machine
end

section
/-! PROOFS. The real arithmetic on finite operands: each operation is the one rounding of its exact result (00_scope.md R11,
R17), and what it answers on multiples of a power of two, the numbers of the mixing path (44_mixer.md R282), is exact. -/

namespace Sys2Proof.Machine

/-! ### Powers of two

Their exponents stay variables here, so that no power is evaluated where one of these lemmas is used. -/

theorem two_pow_mul_le (i j k l : Nat) (h : i + j ≤ k + l) : 2 ^ i * 2 ^ j ≤ 2 ^ k * 2 ^ l := by
  rw [← Nat.pow_add, ← Nat.pow_add]
  exact Nat.pow_le_pow_right (by decide) h

/-- A number of `i` bits, shifted. -/
theorem mul_two_pow_lt {m i j k : Nat} (hm : m < 2 ^ i) (h : i + j ≤ k) : m * 2 ^ j < 2 ^ k :=
  calc m * 2 ^ j < 2 ^ i * 2 ^ j := Nat.mul_lt_mul_of_pos_right hm (Nat.two_pow_pos j)
    _ = 2 ^ (i + j) := (Nat.pow_add 2 i j).symm
    _ ≤ 2 ^ k := Nat.pow_le_pow_right (by decide) h

/-- An integer shifted, sign and magnitude apart. -/
theorem signed_mul_pow {neg : Bool} {n : Int} (h : n = if neg then -(n.natAbs : Int) else n.natAbs) (k : Nat) :
    (if neg then -((n.natAbs * 2 ^ k : Nat) : Int) else (n.natAbs * 2 ^ k : Nat)) = n * 2 ^ k := by
  conv_rhs => rw [h]
  cases neg <;> simp

/-! ### The fields of a real -/

theorem fNeg_eq_decide (a : Binary64) : fNeg a = decide (2 ^ 63 ≤ a.toNat) := BitVec.msb_eq_decide a

theorem fFrac_lt (a : Binary64) : fFrac a < 2 ^ 52 := Nat.mod_lt _ (Nat.two_pow_pos _)

theorem low_eq_fields (a : Binary64) : a.toNat % 2 ^ 63 = fExp a * 2 ^ 52 + fFrac a := by
  unfold fExp fFrac
  omega

/-- Two reals with the same low 63 bits have the same exponent field. -/
theorem fExp_congr {a b : Binary64} (h : a.toNat % 2 ^ 63 = b.toNat % 2 ^ 63) : fExp a = fExp b := by
  unfold fExp
  omega

/-- Two reals with the same low 63 bits have the same magnitude. -/
theorem fMag_congr {a b : Binary64} (h : a.toNat % 2 ^ 63 = b.toNat % 2 ^ 63) : fMag a = fMag b := by
  have hfrac : fFrac a = fFrac b := by
    unfold fFrac
    omega
  rw [fMag, fMag, fExp_congr h, hfrac]

theorem fMag_subnormal {a : Binary64} (h : fExp a = 0) : fMag a = fFrac a := by
  rw [fMag, if_pos h]

theorem fMag_normal {a : Binary64} {e : Nat} (h : fExp a = e + 1) : fMag a = (2 ^ 52 + fFrac a) * 2 ^ e := by
  rw [fMag, if_neg (by omega), pow2_eq, h, Nat.add_sub_cancel]

/-- An exponent field bounds the magnitude. -/
theorem fMag_lt_of_fExp_le {a : Binary64} {e k : Nat} (h : fExp a ≤ e + 1) (hk : 53 + e ≤ k) : fMag a < 2 ^ k := by
  have hf := fFrac_lt a
  rcases hexp : fExp a with _ | i
  · rw [fMag_subnormal hexp]
    exact lt_of_lt_of_le hf (Nat.pow_le_pow_right (by decide) (by omega))
  · rw [fMag_normal hexp]
    exact mul_two_pow_lt (i := 53) (by omega) (by omega)

theorem fMag_lt_of_finite {a : Binary64} (h : fExp a < 2047) : fMag a < 2 ^ 2098 :=
  fMag_lt_of_fExp_le (e := 2045) (by omega) (by decide)

/-- A larger exponent field makes a larger magnitude. -/
theorem fMag_lt_of_fExp_lt {a b : Binary64} (h : fExp a < fExp b) : fMag a < fMag b := by
  obtain ⟨e, he⟩ : ∃ e, fExp b = e + 1 := ⟨fExp b - 1, by omega⟩
  rw [fMag_normal he]
  rcases e with _ | e
  · rw [fMag_subnormal (by omega)]
    have := fFrac_lt a
    omega
  · calc fMag a < 2 ^ (52 + (e + 1)) := fMag_lt_of_fExp_le (e := e) (by omega) (by omega)
      _ = 2 ^ 52 * 2 ^ (e + 1) := Nat.pow_add 2 52 (e + 1)
      _ ≤ (2 ^ 52 + fFrac b) * 2 ^ (e + 1) := Nat.mul_le_mul_right _ (Nat.le_add_right _ _)

/-- The magnitude determines the low 63 bits. -/
theorem low_eq_of_fMag_eq {a b : Binary64} (h : fMag a = fMag b) : a.toNat % 2 ^ 63 = b.toNat % 2 ^ 63 := by
  have hexp : fExp a = fExp b := by
    rcases Nat.lt_trichotomy (fExp a) (fExp b) with hlt | heq | hgt
    · exact absurd h (Nat.ne_of_lt (fMag_lt_of_fExp_lt hlt))
    · exact heq
    · exact absurd h.symm (Nat.ne_of_lt (fMag_lt_of_fExp_lt hgt))
  have hfrac : fFrac a = fFrac b := by
    rcases ha : fExp a with _ | e
    · rw [fMag_subnormal ha, fMag_subnormal (hexp ▸ ha)] at h
      exact h
    · rw [fMag_normal ha, fMag_normal (hexp ▸ ha)] at h
      exact Nat.add_left_cancel (Nat.mul_right_cancel (Nat.two_pow_pos e) h)
  rw [low_eq_fields, low_eq_fields, hexp, hfrac]

/-- The value as the statement writes it, from the bits of the three fields. -/
theorem fUnits_eq_fields (a : Binary64) :
    fUnits a = (if 2 ^ 63 ≤ a.toNat then -1 else 1) *
      ((if fExp a = 0 then fFrac a else (2 ^ 52 + fFrac a) * 2 ^ (fExp a - 1) : Nat) : Int) := by
  rw [fUnits, fNeg_eq_decide, fMag, pow2_eq]
  by_cases h : 2 ^ 63 ≤ a.toNat
  · simp only [h, decide_true, if_true, neg_one_mul]
  · simp only [h, decide_false, Bool.false_eq_true, if_false, one_mul]

/-! ### Negation and absolute value -/

theorem fNeg_fOpp (a : Binary64) : fNeg (fOpp a) = !fNeg a := by
  rw [fNeg, fOpp, BitVec.msb_xor, show BitVec.msb (0x8000000000000000 : Binary64) = true by decide, Bool.xor_true, fNeg]

theorem low_fOpp (a : Binary64) : (fOpp a).toNat % 2 ^ 63 = a.toNat % 2 ^ 63 := by
  rw [fOpp, BitVec.toNat_xor, Nat.xor_mod_two_pow,
    show (0x8000000000000000 : Binary64).toNat % 2 ^ 63 = 0 by decide, Nat.xor_zero]

theorem fExp_fOpp (a : Binary64) : fExp (fOpp a) = fExp a := fExp_congr (low_fOpp a)

theorem fUnits_fOpp (a : Binary64) : fUnits (fOpp a) = -fUnits a := by
  rw [fUnits, fUnits, fNeg_fOpp, fMag_congr (low_fOpp a)]
  cases fNeg a <;> simp

theorem fNeg_fAbs (a : Binary64) : fNeg (fAbs a) = false := by
  rw [fNeg, fAbs, BitVec.msb_and, show BitVec.msb (0x7FFFFFFFFFFFFFFF : Binary64) = false by decide, Bool.and_false]

theorem low_fAbs (a : Binary64) : (fAbs a).toNat % 2 ^ 63 = a.toNat % 2 ^ 63 := by
  rw [fAbs, BitVec.toNat_and, show (0x7FFFFFFFFFFFFFFF : Binary64).toNat = 2 ^ 63 - 1 by decide,
    Nat.and_two_pow_sub_one_eq_mod, Nat.mod_mod]

theorem fUnits_fAbs (a : Binary64) : fUnits (fAbs a) = |fUnits a| := by
  rw [Int.abs_eq_natAbs, natAbs_fUnits, fUnits, fNeg_fAbs, fMag_congr (low_fAbs a)]
  rfl

/-! ### Comparisons and `maxr` -/

theorem fLt_finite {a b : Binary64} (ha : fExp a < 2047) (hb : fExp b < 2047) :
    fLt a b = decide (fUnits a < fUnits b) := by
  simp [fLt, (finite_class a ha).1, (finite_class b hb).1]

theorem fLe_finite {a b : Binary64} (ha : fExp a < 2047) (hb : fExp b < 2047) :
    fLe a b = decide (fUnits a ≤ fUnits b) := by
  simp [fLe, (finite_class a ha).1, (finite_class b hb).1]

theorem fEq_finite {a b : Binary64} (ha : fExp a < 2047) (hb : fExp b < 2047) :
    fEq a b = decide (fUnits a = fUnits b) := by
  simp [fEq, (finite_class a ha).1, (finite_class b hb).1]

/-- Of two reals of one value, the conjunction of the bits has that value too: their bits agree, or they are zeros. -/
theorem fUnits_and {a b : Binary64} (h : fUnits a = fUnits b) : fUnits (a &&& b) = fUnits a := by
  have hmag : fMag a = fMag b := by rw [← natAbs_fUnits, h, natAbs_fUnits]
  have hlow : (a &&& b).toNat % 2 ^ 63 = a.toNat % 2 ^ 63 := by
    rw [BitVec.toNat_and, Nat.and_mod_two_pow, ← low_eq_of_fMag_eq hmag, Nat.and_self]
  have hneg : fNeg (a &&& b) = (fNeg a && fNeg b) := BitVec.msb_and
  by_cases hsign : fNeg a = fNeg b
  · rw [fUnits, fUnits, hneg, ← hsign, Bool.and_self, fMag_congr hlow]
  · have hzero : fMag a = 0 := by
      rw [fUnits, fUnits, ← hmag, Bool.eq_not_of_ne hsign] at h
      cases hb : fNeg b <;> simp [hb] at h <;> omega
    rw [fUnits, fUnits, fMag_congr hlow, hzero]
    simp

theorem fUnits_fMax {a b : Binary64} (ha : fExp a < 2047) (hb : fExp b < 2047) :
    fUnits (fMax a b) = max (fUnits a) (fUnits b) := by
  rw [fMax, fLt_finite ha hb, fLt_finite hb ha, fEq_finite ha hb]
  rcases lt_trichotomy (fUnits a) (fUnits b) with h | h | h
  · rw [if_pos (decide_eq_true h), max_eq_right h.le]
  · rw [if_neg (by simp [h]), if_neg (by simp [h]), if_pos (decide_eq_true h), fUnits_and h, h, max_self]
  · rw [if_neg (by simpa using h.le), if_pos (decide_eq_true h), max_eq_left h.le]

/-! ### Each operation is one rounding of its exact result -/

section Operations

variable {a b : Binary64} (ha : fExp a < 2047) (hb : fExp b < 2047)
include ha hb

/-- The sign an addition gives: the exact sum's, and for an exact zero minus only when both operands are negative. -/
theorem fAdd_eq_fRound :
    fAdd a b = fRound (if fUnits a + fUnits b = 0 then fNeg a && fNeg b else decide (fUnits a + fUnits b < 0))
      (fUnits a + fUnits b).natAbs 1 := by
  obtain ⟨na, ia⟩ := finite_class a ha
  obtain ⟨nb, ib⟩ := finite_class b hb
  rw [fAdd]
  simp only [na, ia, nb, ib, Bool.or_self, Bool.false_eq_true, if_false]
  split
  · next h0 =>
    rw [h0, fRound, fSigned, show roundMagnitude (Int.natAbs 0) 1 = 0 by decide]
  · rfl

theorem fMul_eq_fRound : fMul a b = fRound (fNeg a != fNeg b) (fMag a * fMag b) (2 ^ 1074) := by
  obtain ⟨na, ia⟩ := finite_class a ha
  obtain ⟨nb, ib⟩ := finite_class b hb
  simp only [fMul, na, ia, nb, ib, Bool.or_self, Bool.false_eq_true, if_false, pow2_eq]

theorem fDiv_eq_fRound (h0 : fMag b ≠ 0) : fDiv a b = fRound (fNeg a != fNeg b) (fMag a * 2 ^ 1074) (fMag b) := by
  obtain ⟨na, ia⟩ := finite_class a ha
  obtain ⟨nb, ib⟩ := finite_class b hb
  simp only [fDiv, na, ia, nb, ib, Bool.or_self, Bool.false_eq_true, if_false, pow2_eq, h0]

theorem fAdd_roundsTo : RoundsTo (fUnits a + fUnits b) 1 (fAdd a b) := by
  have hlt : (fUnits a + fUnits b).natAbs < 2 ^ 2 ^ 12 * 1 :=
    calc (fUnits a + fUnits b).natAbs ≤ fMag a + fMag b := by
          rw [← natAbs_fUnits a, ← natAbs_fUnits b]; exact Int.natAbs_add_le _ _
      _ < 2 ^ 2098 + 2 ^ 2098 := Nat.add_lt_add (fMag_lt_of_finite ha) (fMag_lt_of_finite hb)
      _ = 2 ^ 1 * 2 ^ 2098 := by rw [Nat.pow_one, Nat.two_mul]
      _ ≤ 2 ^ 2 ^ 12 * 2 ^ 0 := two_pow_mul_le 1 2098 (2 ^ 12) 0 (by decide)
      _ = 2 ^ 2 ^ 12 * 1 := by rw [Nat.pow_zero]
  rw [fAdd_eq_fRound ha hb]
  generalize fUnits a + fUnits b = x at *
  obtain ⟨h, -⟩ := fRound_roundsTo (if x = 0 then fNeg a && fNeg b else decide (x < 0)) x.natAbs 1 Nat.one_pos hlt
  convert h using 1
  by_cases h0 : x = 0
  · simp [h0]
  · by_cases hneg : x < 0
    · simp only [h0, hneg, if_false, decide_true, if_true]; omega
    · simp only [h0, hneg, if_false, decide_false, Bool.false_eq_true]; omega

theorem fNeg_fAdd_of_zero (h0 : fUnits a + fUnits b = 0) : fNeg (fAdd a b) = (fNeg a && fNeg b) := by
  rw [fAdd_eq_fRound ha hb, h0, if_pos rfl]
  exact (fRound_roundsTo _ _ 1 Nat.one_pos (Nat.mul_pos (Nat.two_pow_pos _) Nat.one_pos)).2

theorem fSub_roundsTo : RoundsTo (fUnits a - fUnits b) 1 (fSub a b) := by
  rw [fSub, Int.sub_eq_add_neg, ← fUnits_fOpp]
  exact fAdd_roundsTo ha (by rwa [fExp_fOpp])

theorem fNeg_fSub_of_zero (h0 : fUnits a - fUnits b = 0) : fNeg (fSub a b) = (fNeg a && !fNeg b) := by
  rw [fSub, ← fNeg_fOpp]
  exact fNeg_fAdd_of_zero ha (by rwa [fExp_fOpp]) (by rw [fUnits_fOpp]; exact h0)

omit ha hb in
/-- The exact product, sign and magnitude apart. -/
theorem fUnits_mul :
    fUnits a * fUnits b =
      if fNeg a != fNeg b then -((fMag a * fMag b : Nat) : Int) else (fMag a * fMag b : Nat) := by
  unfold fUnits
  cases fNeg a <;> cases fNeg b <;> simp

omit ha hb in
/-- The exact quotient's numerator over the divisor's magnitude, sign and magnitude apart. -/
theorem sign_mul_fUnits (h0 : fUnits b ≠ 0) (k : Nat) :
    (fUnits b).sign * fUnits a * 2 ^ k =
      if fNeg a != fNeg b then -((fMag a * 2 ^ k : Nat) : Int) else (fMag a * 2 ^ k : Nat) := by
  have hm : fMag b ≠ 0 := by rw [← natAbs_fUnits]; exact Int.natAbs_ne_zero.mpr h0
  unfold fUnits
  cases fNeg a <;> cases fNeg b <;> simp [Int.sign_natCast_of_ne_zero hm]

theorem fMul_roundsTo :
    RoundsTo (fUnits a * fUnits b) (2 ^ 1074) (fMul a b) ∧ fNeg (fMul a b) = (fNeg a != fNeg b) := by
  have hlt : fMag a * fMag b < 2 ^ 2 ^ 12 * 2 ^ 1074 :=
    calc fMag a * fMag b < 2 ^ 2098 * 2 ^ 2098 := Nat.mul_lt_mul'' (fMag_lt_of_finite ha) (fMag_lt_of_finite hb)
      _ ≤ 2 ^ 2 ^ 12 * 2 ^ 1074 := two_pow_mul_le 2098 2098 (2 ^ 12) 1074 (by decide)
  rw [fMul_eq_fRound ha hb, fUnits_mul]
  exact fRound_roundsTo _ _ _ (pow_pos two_pos 1074) hlt

theorem fDiv_roundsTo (h0 : fUnits b ≠ 0) :
    RoundsTo ((fUnits b).sign * fUnits a * 2 ^ 1074) (fUnits b).natAbs (fDiv a b) ∧
      fNeg (fDiv a b) = (fNeg a != fNeg b) := by
  have hm : 0 < fMag b := by rw [← natAbs_fUnits]; exact Int.natAbs_pos.mpr h0
  have hlt : fMag a * 2 ^ 1074 < 2 ^ 2 ^ 12 * fMag b :=
    lt_of_lt_of_le (mul_two_pow_lt (fMag_lt_of_finite ha) (by decide)) (Nat.le_mul_of_pos_right _ hm)
  rw [fDiv_eq_fRound ha hb hm.ne', sign_mul_fUnits h0 1074, natAbs_fUnits]
  exact fRound_roundsTo _ _ _ hm hlt

end Operations

/-! ### Multiples of a power of two -/

/-- Sign and magnitude of a multiple of a power of two. -/
theorem multiple_fields {a : Binary64} {c : Int} {j : Nat} (h : fUnits a = c * 2 ^ j) :
    fMag a = c.natAbs * 2 ^ j ∧ c = if fNeg a then -(c.natAbs : Int) else c.natAbs := by
  have hpos : (0 : Int) < 2 ^ j := Int.pow_pos (by decide)
  refine ⟨by rw [← natAbs_fUnits, h, Int.natAbs_mul, Int.natAbs_pow]; rfl, ?_⟩
  unfold fUnits at h
  split at h
  · next hneg =>
    have : c ≤ 0 := Int.nonpos_of_mul_nonpos_left (by omega) hpos
    rw [if_pos hneg]
    omega
  · next hneg =>
    have : 0 ≤ c := Int.nonneg_of_mul_nonneg_left (by omega) hpos
    rw [if_neg hneg]
    omega

section Multiples

variable {x y : Binary64} {m n : Int} {j : Nat} (hx : fExp x < 2047) (hy : fExp y < 2047) (hj : j ≤ 2045)
include hx hy hj

/-- Two multiples of `2 ^ j` units add exactly while the sum has 53 significant bits. -/
theorem fAdd_multiple (hm : fUnits x = m * 2 ^ j) (hn : fUnits y = n * 2 ^ j) (hlt : (m + n).natAbs < 2 ^ 53) :
    fUnits (fAdd x y) = (m + n) * 2 ^ j ∧ fExp (fAdd x y) < 2047 := by
  have hsum : fUnits x + fUnits y = (m + n) * 2 ^ j := by rw [hm, hn, Int.add_mul]
  have habs : (fUnits x + fUnits y).natAbs = (m + n).natAbs * 2 ^ j := by
    rw [hsum, Int.natAbs_mul, Int.natAbs_pow]; rfl
  rw [← hsum]
  exact fAdd_exact x y _ _ j hx hy habs rfl hlt (mul_two_pow_lt hlt (by omega))

/-- A multiple of `2 ^ j` units times an integer is exact while the product has 53 significant bits. -/
theorem fMul_multiple (hm : fUnits x = m * 2 ^ j) (hn : fUnits y = n * 2 ^ 1074) (hlt : (m * n).natAbs < 2 ^ 53) :
    fUnits (fMul x y) = m * n * 2 ^ j ∧ fExp (fMul x y) < 2047 := by
  obtain ⟨magx, signx⟩ := multiple_fields hm
  obtain ⟨magy, signy⟩ := multiple_fields hn
  have hprod : fMag x * fMag y = (m * n).natAbs * 2 ^ j * 2 ^ 1074 := by
    rw [magx, magy, Int.natAbs_mul, Nat.mul_mul_mul_comm, ← Nat.mul_assoc]
  obtain ⟨hval, hexp, -⟩ := fMul_exact x y _ _ j hx hy hprod rfl hlt (mul_two_pow_lt hlt (by omega))
  refine ⟨?_, hexp⟩
  rw [hval, signx, signy]
  cases fNeg x <;> cases fNeg y <;> simp [Int.natAbs_mul]

/-- A multiple of `2 ^ (j + k)` units divided by the real `2 ^ k` is exact. -/
theorem fDiv_multiple {k : Nat} (hm : fUnits x = m * 2 ^ (j + k)) (hd : fUnits y = 1 * 2 ^ (1074 + k))
    (hlt : m.natAbs < 2 ^ 53) : fUnits (fDiv x y) = m * 2 ^ j ∧ fExp (fDiv x y) < 2047 := by
  obtain ⟨magx, signx⟩ := multiple_fields hm
  obtain ⟨magy, signy⟩ := multiple_fields hd
  rw [Int.natAbs_one, Nat.one_mul] at magy
  have hposy : fNeg y = false := by
    cases h : fNeg y
    · rfl
    · rw [h] at signy; exact absurd signy (by decide)
  have hquot : fMag x * 2 ^ 1074 = m.natAbs * 2 ^ j * fMag y := by
    rw [magx, magy, Nat.pow_add, Nat.pow_add, ← Nat.mul_assoc, Nat.mul_assoc _ (2 ^ k), Nat.mul_comm (2 ^ k)]
  obtain ⟨hval, hexp, -⟩ := fDiv_exact x y _ _ j hx hy (by rw [magy]; exact (Nat.two_pow_pos _).ne') hquot rfl hlt
    (mul_two_pow_lt hlt (by omega))
  rw [hposy, Bool.bne_false] at hval
  exact ⟨hval.trans (signed_mul_pow signx j), hexp⟩

end Multiples

/-! ### Integers and the mixing path -/

theorem fUnits_fOfInt (n : Int) (h : n.natAbs < 2 ^ 53) : fUnits (fOfInt n) = n * 2 ^ 1074 ∧ fExp (fOfInt n) < 2047 := by
  obtain ⟨hval, hexp, -⟩ := fRound_exact (decide (n < 0)) (n.natAbs * 2 ^ 1074) 1 n.natAbs 1074 Nat.one_pos rfl h
    (mul_two_pow_lt h (by decide))
  rw [Nat.mul_one] at hval hexp
  rw [fOfInt, pow2_eq]
  have hsign : n = if decide (n < 0) then -(n.natAbs : Int) else n.natAbs := by
    by_cases hneg : n < 0
    · rw [if_pos (decide_eq_true hneg)]; omega
    · rw [if_neg (by simpa using hneg)]; omega
  exact ⟨hval.trans (signed_mul_pow hsign 1074), hexp⟩

/-- A positive power of two, from its fields. -/
theorem fUnits_power {a : Binary64} {e : Nat} (hneg : fNeg a = false) (hexp : fExp a = e + 1) (hfrac : fFrac a = 0) :
    fUnits a = 1 * 2 ^ (52 + e) := by
  rw [fUnits, hneg, fMag_normal hexp, hfrac, Nat.add_zero, ← Nat.pow_add]
  simp

theorem fUnits_realPcmDivisor : fUnits realPcmDivisor = 1 * 2 ^ (1074 + 7) :=
  fUnits_power (e := 1029) (by decide) (by decide) (by decide)

theorem fUnits_realVolumeDivisor : fUnits realVolumeDivisor = 1 * 2 ^ (1074 + 6) :=
  fUnits_power (e := 1028) (by decide) (by decide) (by decide)

theorem fUnits_realOne : fUnits realOne = 1 * 2 ^ 1074 :=
  fUnits_power (e := 1022) (by decide) (by decide) (by decide)

/-- An integer below 128 over 128. -/
theorem fUnits_pcmQuotient (n : Nat) (h : n < 128) :
    fUnits (fDiv (fOfNat n) realPcmDivisor) = n * 2 ^ 1067 ∧ fExp (fDiv (fOfNat n) realPcmDivisor) < 2047 := by
  obtain ⟨hval, hexp⟩ := fUnits_fOfNat n (by omega)
  exact fDiv_multiple (j := 1067) (k := 7) hexp (by decide) (by decide) hval fUnits_realPcmDivisor (by omega)

/-- Every PCM byte is its signed value over 128 exactly (20_memory.md R95). -/
theorem fUnits_pcm (b : Byte) : fUnits (pcm b) = b.toInt * 2 ^ 1067 ∧ fExp (pcm b) < 2047 := by
  have hb := b.isLt
  rw [pcm, BitVec.toInt_eq_toNat_cond]
  by_cases h : b.toNat < 128
  · rw [if_pos h, if_pos (by omega)]
    exact fUnits_pcmQuotient b.toNat h
  · rw [if_neg h, if_neg (by omega), fSub]
    obtain ⟨hval, hexp⟩ := fUnits_pcmQuotient (b.toNat - 128) (by omega)
    have hone : fUnits (fOpp realOne) = -128 * 2 ^ 1067 := by
      rw [fUnits_fOpp, fUnits_realOne, show (1074 : Nat) = 7 + 1067 by rfl, pow_add]
      generalize (2 : Int) ^ 1067 = t
      ring
    have hsum : (b.toNat : Int) - (2 ^ 8 : Nat) = ((b.toNat - 128 : Nat) : Int) + -128 := by omega
    rw [hsum]
    exact fAdd_multiple (j := 1067) hexp (by rw [fExp_fOpp]; decide) (by decide) hval hone (by omega)

/-- A PCM byte scaled by a volume is their product over 8192 exactly (44_mixer.md R276, R282). -/
theorem fUnits_scaleVolume_pcm (b volume : BitVec 8) :
    fUnits (scaleVolume (pcm b) volume) = b.toInt * volume.toNat * 2 ^ 1061 ∧
      fExp (scaleVolume (pcm b) volume) < 2047 := by
  obtain ⟨hpcm, hpcmExp⟩ := fUnits_pcm b
  obtain ⟨hvol, hvolExp⟩ := fUnits_fOfNat volume.toNat (lt_trans volume.isLt (by decide))
  have hlt : (b.toInt * volume.toNat).natAbs < 2 ^ 53 :=
    calc (b.toInt * volume.toNat).natAbs = b.toInt.natAbs * volume.toNat := Int.natAbs_mul _ _
      _ ≤ 2 ^ 8 * 2 ^ 8 := Nat.mul_le_mul (by
          have := b.isLt
          rw [BitVec.toInt_eq_toNat_cond]; split <;> omega) volume.isLt.le
      _ < 2 ^ 53 := by decide
  obtain ⟨hmul, hmulExp⟩ := fMul_multiple (j := 1067) hpcmExp hvolExp (by decide) hpcm hvol hlt
  exact fDiv_multiple (j := 1061) (k := 6) hmulExp (by decide) (by decide) hmul fUnits_realVolumeDivisor hlt

/-- Settles O47: the fields, each operation as one rounding, and the exact multiples of the mixing path. -/
theorem mixingPathIsExact : Obligations.MixingPathIsExact := by
  refine ⟨fun a => ⟨rfl, fNeg_eq_decide a, fun _ => fUnits_eq_fields a⟩, fun a b ha hb => ?_, fUnits_fOfNat,
    fUnits_fOfInt, fun b => (fUnits_pcm b).1, fUnits_scaleVolume_pcm, fun x y m n hx hy hm hn hm40 hn40 => ?_⟩
  · obtain ⟨hmul, hmulSign⟩ := fMul_roundsTo ha hb
    exact ⟨fAdd_roundsTo ha hb, fSub_roundsTo ha hb, hmul, fDiv_roundsTo ha hb, hmulSign, fNeg_fAdd_of_zero ha hb,
      fNeg_fSub_of_zero ha hb, fLe_finite ha hb, fEq_finite ha hb, fUnits_fAbs a, fUnits_fMax ha hb⟩
  · exact fAdd_multiple hx hy (by decide) hm hn (by omega)

end Sys2Proof.Machine
end

section
/-! PROOFS. What one step can be, said once: a channel step that ends at the next channel or at the frame's end, a
transaction, or nothing (log 1); and for each of these pieces, all it can do. -/

namespace Sys2Proof.Machine

/-! ### The pieces of a step -/

/-- The player registers with the mixer's registers, `och`, the accumulators and VU, taken from `q`. -/
def Player.withMix (p q : Player) : Player := { p with och := q.och, acc0 := q.acc0, acc1 := q.acc1, vu := q.vu }

/-- What the note-on, the slides and the note index keep of a voice: `Voice.Ok` without the dirty flags, which are set in
the middle of a channel step. -/
structure Voice.Pitched (v : Voice) : Prop where
  note_le : v.note.toNat ≤ 35
  period_pos : 1 ≤ v.period.toNat
  slideto_pos : 1 ≤ v.slideto.toNat

/-- A change of the voice's other fields keeps its pitch. -/
theorem Voice.Pitched.congr {v w : Voice} (hv : v.Pitched) (hnote : w.note = v.note) (hperiod : w.period = v.period)
    (hslideto : w.slideto = v.slideto) : w.Pitched where
  note_le := by rw [hnote]; exact hv.note_le
  period_pos := by rw [hperiod]; exact hv.period_pos
  slideto_pos := by rw [hslideto]; exact hv.slideto_pos

/-- The last number of a list with a property, as a fold finds it, is within the bound of the list. -/
theorem foldl_last_le (P : Nat → Prop) [DecidablePred P] (bound : Nat) (ks : List Nat) (best : Option Nat)
    (hks : ∀ j ∈ ks, j ≤ bound) (hbest : ∀ j ∈ best, j ≤ bound) :
    ∀ j ∈ ks.foldl (fun best k => if P k then some k else best) best, j ≤ bound := by
  induction ks generalizing best with
  | nil => exact hbest
  | cons k ks ih =>
    refine ih _ (fun j hj => hks j (List.mem_cons_of_mem k hj)) ?_
    dsimp only
    split
    · rintro j ⟨⟩
      exact hks k List.mem_cons_self
    · exact hbest

/-- No note index lies past the table (44_mixer.md R268). -/
theorem noteOf_le {period : BitVec 12} {k : Nat} (h : noteOf period = some k) : k ≤ 35 :=
  foldl_last_le (fun j => period.toNat ≤ periodTab j) 35 (List.range 36) none
    (fun _ hj => Nat.le_of_lt_succ (List.mem_range.mp hj)) nofun k h

theorem updateNote_pitched {v : Voice} (hv : v.Pitched) : (updateNote v).Pitched := by
  unfold updateNote
  split
  · refine ⟨?_, hv.period_pos, hv.slideto_pos⟩
    have hnote : (noteOf v.period).getD v.note.toNat ≤ 35 := by
      cases h : noteOf v.period with
      | none => exact hv.note_le
      | some k => exact noteOf_le h
    rw [BitVec.toNat_ofNat, Nat.mod_eq_of_lt (by omega)]
    exact hnote
  · exact hv

theorem updatePitch_pitched (m : Module) (p : Player) {v : Voice} (hv : v.Pitched) : (updatePitch m p v).Pitched := by
  have hnote : (updateNote (updateVoiceperiod v)).Pitched :=
    updateNote_pitched (hv.congr rfl rfl rfl)
  unfold updatePitch updateSpeed
  split
  · exact hnote.congr rfl rfl rfl
  · exact hnote

theorem wrapOrStop_pitched (d : Sample) {v : Voice} (hv : v.Pitched) : (wrapOrStop d v).Pitched := by
  have hstill : ∀ (pos : Binary64) (on : Bool), Voice.Pitched { v with samplepos := pos, noteon := on } :=
    fun _ _ => hv.congr rfl rfl rfl
  unfold wrapOrStop
  split <;> split
  · exact hstill _ v.noteon
  · exact hv
  · exact hstill v.samplepos _
  · exact hv

/-- The player registers after a mix, whichever accumulator it chose (44_mixer.md R277, R278). -/
theorem updateVu_accumulate (c : Fin 28) (f : Binary64) (p : Player) :
    updateVu c f (accumulate f p) = p.withMix (updateVu c f (accumulate f p)) ∧
      (updateVu c f (accumulate f p)).och = p.och := by
  unfold accumulate
  split <;> exact ⟨rfl, rfl⟩

/-- `t` is `s` after a mix: the current voice written, its dirty flags cleared, and the mixer's registers written, `och`
apart; the pitch of the voice `v` is kept. -/
def State.Mixes (s : State) (v : Voice) (t : State) : Prop :=
  ∃ (w : Voice) (q : Player), t = (s.setVoice w).setPlayer (s.p.withMix q) ∧ w.chflags = 0 ∧ q.och = s.p.och ∧
    (v.Pitched → w.Pitched)

theorem mixSounding_mixes (s : State) (v : Voice) : s.Mixes v (mixSounding s v) := by
  obtain ⟨hq, hoch⟩ := updateVu_accumulate s.chan (voiceOutput s (advanceCursor v)) s.p
  refine ⟨clearChflags (wrapOrStop s.m.smp[(advanceCursor v).sample] (advanceCursor v)), _, ?_, rfl, hoch, fun hv => ?_⟩
  · rw [← hq]
    rfl
  · have hmoved : (advanceCursor v).Pitched := hv.congr rfl rfl rfl
    have hend := wrapOrStop_pitched s.m.smp[(advanceCursor v).sample] hmoved
    exact hend.congr rfl rfl rfl

theorem mixSilent_mixes (s : State) (v : Voice) : s.Mixes v (mixSilent s v) :=
  ⟨clearChflags v, updateVu s.chan realZero s.p, rfl, rfl, rfl, fun hv => hv.congr rfl rfl rfl⟩

/-- All a channel step's tail can do (44_mixer.md R267 to R281): it writes the current voice, with its dirty flags cleared,
and the mixer's registers, with `och` moved on. -/
theorem channelTail_cases (s : State) :
    ∃ (v : Voice) (q : Player), channelTail s = (s.setVoice v).setPlayer (s.p.withMix q) ∧
      v.chflags = 0 ∧ q.och = nextOch s.p.och s.chan ∧ (s.voice.Pitched → v.Pitched) := by
  have hmix : (s.onPlayer fun p => { p with och := nextOch p.och s.chan }).Mixes (updatePitch s.m s.p s.voice)
      (channelTail s) := by
    unfold channelTail
    dsimp only
    split
    · exact mixSounding_mixes _ _
    · exact mixSilent_mixes _ _
  obtain ⟨w, q, ht, hflags, hoch, hpitch⟩ := hmix
  exact ⟨w, q, ht, hflags, hoch, fun hv => hpitch (updatePitch_pitched s.m s.p hv)⟩

/-- The channel loop goes on to the next channel, when there is one, or the frame ends (40_sequencer.md R150). -/
theorem nextChannel_cases (s : State) :
    (∃ c : Fin 28, c.val = s.chan.val + 1 ∧ c.val < s.m.nch.toNat ∧ nextChannel s = { s with chan := c }) ∨
      nextChannel s = frameEnd s := by
  unfold nextChannel
  split
  · next h => exact Or.inl ⟨⟨s.chan.val + 1, h.2⟩, rfl, h.1, rfl⟩
  · exact Or.inr rfl

/-- A FRAME starts with silence, with the channel loop, or, having no channel, with its own end (40_sequencer.md R150 to
R152). -/
theorem frameStart_cases (s : State) :
    let t := s.onPlayer clearAccumulators
    (frameStart s = t.answer (.frame realZero realZero)) ∨
      (t.p.gateOpen = true ∧ frameStart s = enterChannels (sequence t)) := by
  unfold frameStart
  dsimp only
  split
  · next h => exact Or.inr ⟨h, rfl⟩
  · exact Or.inl rfl

/-- Of two writes of the current voice and the player registers the later one stays. -/
theorem setVoice_setPlayer_twice (s : State) (v w : Voice) (p q : Player) :
    (((s.setVoice v).setPlayer p).setVoice w).setPlayer q = (s.setVoice w).setPlayer q := by
  simp [State.setVoice, State.setPlayer]

@[simp] theorem channelHead_setVoice (s : State) (v : Voice) : (channelHead s).setVoice v = s.setVoice v := by
  simp [channelHead, State.onVoice]

/-- A channel step is the instruction the decoder reads, then the tail (44_mixer.md R260). -/
theorem channelStep_eq {s u : State}
    (hu : exec (decodeCell (fetchCell (channelHead s))) (channelHead s) = .next u) :
    channelStep s = .next (channelTail u) := by
  rw [channelStep, hu]

/-- A step inside a frame: the instruction within its reach, the tail, the next channel or the frame's end. -/
theorem step_busy {s t : State} (hb : s.busy = true) (h : step s = .next t) :
    ∃ u, exec (decodeCell (fetchCell (channelHead s))) (channelHead s) = .next u ∧ (channelHead s).Reaches u ∧
      t = nextChannel (channelTail u) := by
  obtain ⟨u, hu, hreach⟩ := exec_reaches (decodeCell (fetchCell (channelHead s))) (channelHead s)
  rw [step, if_pos hb, stepChannel, channelStep_eq hu] at h
  exact ⟨u, hu, hreach, (Host.Outcome.next.inj h).symm⟩

/-- A step between frames: nothing, or the oldest transaction (45_host_operations.md R300). -/
theorem step_idle {s t : State} (hb : s.busy = false) (h : step s = .next t) :
    t = s ∨ ∃ op rest, s.host = op :: rest ∧ hostTurn op { s with host := rest } = .next t := by
  rw [step, hb, if_neg Bool.false_ne_true] at h
  unfold stepHost at h
  split at h
  · exact Or.inl (Host.Outcome.next.inj h).symm
  · next op rest hhost => exact Or.inr ⟨op, rest, hhost, h⟩

end Sys2Proof.Machine
end

section
/-! PROOFS. The settings and the program counter: what each piece of a step leaves of them (10_state.md R41, R52, R54;
40_sequencer.md R152). -/

namespace Sys2Proof.Machine

/-! ### Steps inside a frame -/


/-- The registers that the host's transactions alone set (10_state.md R41, R52): `playing`, `paused`, `repeat` and
`sampleRate`. -/
def Player.settings (p : Player) : Bool × Bool × Bool × BitVec 32 := (p.playing, p.paused, p.repeatFlag, p.sampleRate)

/-- `endOfSong` and the registers it freezes (40_sequencer.md R152): `songPosition`, `row`, `tick` and `offset`. -/
def Player.counter (p : Player) : Bool × BitVec 9 × BitVec 8 × BitVec 6 × BitVec 32 :=
  (p.endOfSong, p.songPosition, p.row, p.tick, p.offset)

theorem reaches_settings {s t : State} (h : s.Reaches t) : t.p.settings = s.p.settings := by
  obtain ⟨v, p, ⟨q, raised, -, rfl⟩, rfl⟩ := h
  rfl

theorem reaches_counter {s t : State} (h : s.Reaches t) : t.p.counter = s.p.counter := by
  obtain ⟨v, p, ⟨q, raised, -, rfl⟩, rfl⟩ := h
  rfl

@[simp] theorem channelTail_settings (s : State) : (channelTail s).p.settings = s.p.settings := by
  obtain ⟨v, q, h, -⟩ := channelTail_cases s
  rw [h]
  rfl

@[simp] theorem channelTail_counter (s : State) : (channelTail s).p.counter = s.p.counter := by
  obtain ⟨v, q, h, -⟩ := channelTail_cases s
  rw [h]
  rfl

@[simp] theorem nextChannel_settings (s : State) : (nextChannel s).p.settings = s.p.settings := by
  rcases nextChannel_cases s with ⟨c, -, -, h⟩ | h
  · rw [h]
  · rw [h]; rfl

@[simp] theorem nextChannel_counter (s : State) : (nextChannel s).p.counter = s.p.counter := by
  rcases nextChannel_cases s with ⟨c, -, -, h⟩ | h
  · rw [h]
  · rw [h]; rfl

/-- A step inside a frame changes neither the settings nor the program counter. -/
theorem step_busy_keeps {s t : State} (hb : s.busy = true) (h : step s = .next t) :
    t.p.settings = s.p.settings ∧ t.p.counter = s.p.counter := by
  obtain ⟨u, -, hreach, rfl⟩ := step_busy hb h
  exact ⟨by rw [nextChannel_settings, channelTail_settings, reaches_settings hreach]; rfl,
    by rw [nextChannel_counter, channelTail_counter, reaches_counter hreach]; rfl⟩

/-! ### ADVANCE and the frame's start -/

/-- The player registers with the sequencer's registers, those ADVANCE writes, taken from `q` (40_sequencer.md R153 to
R162). -/
def Player.withSequence (p q : Player) : Player :=
  { p with
    tick := q.tick
    row := q.row
    songPosition := q.songPosition
    offset := q.offset
    flags := q.flags
    breakRow := q.breakRow
    patternJump := q.patternJump
    patternDelay := q.patternDelay
    patternWait := q.patternWait
    endOfSong := q.endOfSong }

theorem advanceTick_writes (p : Player) : advanceTick p = p.withSequence (advanceTick p) := by
  unfold advanceTick
  dsimp only
  split <;> rfl

theorem resolveRow_writes (p : Player) : resolveRow p = p.withSequence (resolveRow p) := by
  unfold resolveRow
  split
  · rfl
  · split <;> rfl

theorem changeRow_writes (p : Player) : changeRow p = p.withSequence (changeRow p) := by
  unfold changeRow
  rw [resolveRow_writes p]
  rfl

theorem advanceRow_writes (p : Player) : advanceRow p = p.withSequence (advanceRow p) := by
  unfold advanceRow
  split
  · split
    · rfl
    · rw [changeRow_writes]
      rfl
  · rfl

theorem advancePosition_writes (p : Player) : advancePosition p = p.withSequence (advancePosition p) := by
  unfold advancePosition
  split <;> rfl

theorem checkSongEnd_writes (songLength : BitVec 8) (p : Player) :
    checkSongEnd songLength p = p.withSequence (checkSongEnd songLength p) := by
  unfold checkSongEnd
  split
  · split <;> rfl
  · rfl

/-- ADVANCE writes the sequencer's registers alone. -/
theorem advance_writes (songLength : BitVec 8) (p : Player) :
    advance songLength p = p.withSequence (advance songLength p) := by
  unfold advance
  rw [checkSongEnd_writes, advancePosition_writes, advanceRow_writes, advanceTick_writes]
  rfl

theorem advance_settings (songLength : BitVec 8) (p : Player) : (advance songLength p).settings = p.settings := by
  rw [advance_writes]
  rfl

@[simp] theorem enterChannels_settings (s : State) : (enterChannels s).p.settings = s.p.settings := by
  unfold enterChannels
  split <;> rfl

@[simp] theorem enterChannels_counter (s : State) : (enterChannels s).p.counter = s.p.counter := by
  unfold enterChannels
  split <;> rfl

/-- Once the song has ended ADVANCE is not run (40_sequencer.md R152). -/
theorem sequence_ended {s : State} (h : s.p.endOfSong = true) : sequence s = s := by
  rw [sequence, if_pos h]

/-- While the song lasts ADVANCE runs once. -/
theorem sequence_playing {s : State} (h : s.p.endOfSong = false) :
    sequence s = s.onPlayer (advance s.m.songLength) := by
  rw [sequence, h, if_neg Bool.false_ne_true]

theorem sequence_settings (s : State) : (sequence s).p.settings = s.p.settings := by
  unfold sequence
  split
  · rfl
  · exact advance_settings s.m.songLength s.p

theorem frameStart_settings (s : State) : (frameStart s).p.settings = s.p.settings := by
  rcases frameStart_cases s with h | ⟨-, h⟩ <;> rw [h]
  · rfl
  · rw [enterChannels_settings, sequence_settings]
    rfl

/-- After the end of the song a FRAME's start leaves the program counter (40_sequencer.md R152). -/
theorem frameStart_counter {s : State} (hend : s.p.endOfSong = true) : (frameStart s).p.counter = s.p.counter := by
  rcases frameStart_cases s with h | ⟨-, h⟩ <;> rw [h]
  · rfl
  · rw [enterChannels_counter, sequence_ended (s := s.onPlayer clearAccumulators) hend]
    rfl

/-! ### The transactions -/

/-- What a transaction makes of the settings (45_host_operations.md R304, R305): its own register, if it has one. -/
def HostOp.applySetting (op : HostOp) (p : Player) : Player :=
  match op with
  | .setPlaying b => { p with playing := b }
  | .setPaused b => { p with paused := b }
  | .setRepeat b => { p with repeatFlag := b }
  | .setRate r => { p with sampleRate := if rateOk r then r else p.sampleRate }
  | _ => p

theorem parse_settings (s : State) : (parse s).p.settings = s.p.settings := by
  unfold parse
  split <;> rfl

theorem parse_counter (s : State) : (parse s).p.counter = s.p.counter := by
  unfold parse
  split <;> rfl

/-- LOAD_IMAGE, where it is not refused, loads (45_host_operations.md R301). -/
theorem hostTurn_loadImage {bytes : List Byte} {s t : State} (h : hostTurn (.loadImage bytes) s = .next t) :
    imageLengthOk bytes = true ∧ t = (loadImage bytes s).answer .done := by
  unfold hostTurn at h
  dsimp only at h
  split at h
  · next hlen => exact ⟨hlen, (Host.Outcome.next.inj h).symm⟩
  · cases h

/-- SET_RATE sets a rate that is not 0 and refuses 0 (45_host_operations.md R304). -/
theorem hostTurn_setRate {r : BitVec 32} {s t : State} (h : hostTurn (.setRate r) s = .next t) :
    t.p = HostOp.applySetting (.setRate r) s.p ∧ ∃ reply, t = (s.setPlayer t.p).answer reply := by
  unfold hostTurn at h
  dsimp only at h
  split at h
  · next hr =>
    obtain rfl := Host.Outcome.next.inj h
    exact ⟨by simp [HostOp.applySetting, hr], .done, rfl⟩
  · next hr =>
    obtain rfl := Host.Outcome.next.inj h
    exact ⟨by simp [HostOp.applySetting, hr], .refusedTransaction, rfl⟩

/-- A transaction changes the settings by its own setting alone. -/
theorem hostTurn_settings {op : HostOp} {s t : State} (h : hostTurn op s = .next t) :
    t.p.settings = (op.applySetting s.p).settings := by
  cases op with
  | loadImage bytes => rw [(hostTurn_loadImage h).2]; rfl
  | setRate r => rw [(hostTurn_setRate h).1]
  | parse => obtain rfl := Host.Outcome.next.inj h; exact parse_settings s
  | frame => obtain rfl := Host.Outcome.next.inj h; exact frameStart_settings s
  | fill n =>
    cases n with
    | zero => obtain rfl := Host.Outcome.next.inj h; rfl
    | succ n => obtain rfl := Host.Outcome.next.inj h; exact frameStart_settings _
  | _ => obtain rfl := Host.Outcome.next.inj h; rfl

/-- After the end of the song no transaction but INITIALIZE moves the program counter. -/
theorem hostTurn_counter {op : HostOp} {s t : State} (hend : s.p.endOfSong = true) (hop : op ≠ .init)
    (h : hostTurn op s = .next t) : t.p.counter = s.p.counter := by
  cases op with
  | init => exact absurd rfl hop
  | loadImage bytes => rw [(hostTurn_loadImage h).2]; rfl
  | setRate r => rw [(hostTurn_setRate h).1]; rfl
  | parse => obtain rfl := Host.Outcome.next.inj h; exact parse_counter s
  | frame => obtain rfl := Host.Outcome.next.inj h; exact frameStart_counter hend
  | fill n =>
    cases n with
    | zero => obtain rfl := Host.Outcome.next.inj h; rfl
    | succ n => obtain rfl := Host.Outcome.next.inj h; exact frameStart_counter hend
  | _ => obtain rfl := Host.Outcome.next.inj h; rfl

/-! ### The two statements -/

/-- After the end of the song a step keeps the program counter, or it is an INITIALIZE. -/
theorem step_counter {s t : State} (hend : s.p.endOfSong = true) (h : step s = .next t) :
    t.p.counter = s.p.counter ∨ s.busy = false ∧ ∃ rest, s.host = .init :: rest := by
  cases hb : s.busy with
  | true => exact Or.inl (step_busy_keeps hb h).2
  | false =>
    rcases step_idle hb h with rfl | ⟨op, rest, hhost, hturn⟩
    · exact Or.inl rfl
    · by_cases hop : op = .init
      · exact Or.inr ⟨rfl, rest, hop ▸ hhost⟩
      · exact Or.inl (hostTurn_counter (s := { s with host := rest }) hend hop hturn)

/-- Settles O20: a step that is no INITIALIZE keeps `endOfSong` and the counter together. -/
theorem songEndIsStickyAndFreezesTheCounter : Obligations.SongEndIsStickyAndFreezesTheCounter := by
  intro s t h hend
  rcases step_counter hend h with hcounter | ⟨hb, rest, hhost⟩
  · simp only [Player.counter, Prod.mk.injEq] at hcounter
    obtain ⟨hsong, hposition, hrow, htick, hoffset⟩ := hcounter
    refine ⟨fun hcleared => ?_, fun _ => ⟨hsong.trans hend, hposition, hrow, htick, hoffset⟩⟩
    rw [hsong, hend] at hcleared
    contradiction
  · exact ⟨fun _ => ⟨hb, rest, hhost⟩, fun hno => absurd hhost (hno rest)⟩

/-- A step that changes a setting is a transaction that applies to it. -/
theorem step_changes_setting {α : Type} (f : Player → α) (hf : ∀ p q : Player, p.settings = q.settings → f p = f q)
    {s t : State} (h : step s = .next t) (hne : f t.p ≠ f s.p) :
    s.busy = false ∧ ∃ op rest, s.host = op :: rest ∧ f (op.applySetting s.p) ≠ f s.p := by
  cases hb : s.busy with
  | true => exact absurd (hf _ _ (step_busy_keeps hb h).1) hne
  | false =>
    rcases step_idle hb h with rfl | ⟨op, rest, hhost, hturn⟩
    · exact absurd rfl hne
    · exact ⟨rfl, op, rest, hhost, by rwa [← hf _ _ (hostTurn_settings hturn)]⟩

/-- Settles O21: of the transactions only the one named for a setting applies to it. -/
theorem settingsChangeOnlyByTheirTransactions : Obligations.SettingsChangeOnlyByTheirTransactions := by
  intro s t h
  refine ⟨fun hne => ?_, fun hne => ?_, fun hne => ?_, fun hne => ?_⟩
  · obtain ⟨hb, op, rest, hhost, happly⟩ :=
      step_changes_setting Player.playing (fun _ _ e => congrArg Prod.fst e) h hne
    cases op with
    | setPlaying b => exact ⟨hb, b, rest, hhost⟩
    | _ => exact absurd rfl happly
  · obtain ⟨hb, op, rest, hhost, happly⟩ :=
      step_changes_setting Player.paused (fun _ _ e => congrArg (·.2.1) e) h hne
    cases op with
    | setPaused b => exact ⟨hb, b, rest, hhost⟩
    | _ => exact absurd rfl happly
  · obtain ⟨hb, op, rest, hhost, happly⟩ :=
      step_changes_setting Player.repeatFlag (fun _ _ e => congrArg (·.2.2.1) e) h hne
    cases op with
    | setRepeat b => exact ⟨hb, b, rest, hhost⟩
    | _ => exact absurd rfl happly
  · obtain ⟨hb, op, rest, hhost, happly⟩ :=
      step_changes_setting Player.sampleRate (fun _ _ e => congrArg (·.2.2.2) e) h hne
    cases op with
    | setRate r => exact ⟨hb, r, rest, hhost⟩
    | _ => exact absurd rfl happly

end Sys2Proof.Machine
end

section
/-! PROOFS. A channel step is local to its channel's record (10_state.md R21): states that differ in the other records alone
stay so, since every operation of the step is a change of the current voice or of the player registers that reads no other
record. -/

namespace Sys2Proof.Machine

/-- `u` is `s` but for the records of the other channels. -/
def State.Twin (s u : State) : Prop :=
  ∃ others : Vector Voice 28, others[s.chan] = s.ch[s.chan] ∧ u = { s with ch := others }

/-- The operation keeps twins twins: of the voice records it reads and writes the current channel's alone. -/
def Local (f : State → State) : Prop := ∀ s u : State, s.Twin u → (f s).Twin (f u)

/-! ### Twins -/

theorem twin_voice {s u : State} (h : s.Twin u) : u.voice = s.voice := by
  obtain ⟨others, hsame, rfl⟩ := h
  exact hsame

theorem twin_setVoice {s u : State} (h : s.Twin u) (v : Voice) : (s.setVoice v).Twin (u.setVoice v) := by
  obtain ⟨others, -, rfl⟩ := h
  exact ⟨others.set s.chan v, by simp, rfl⟩

theorem twin_setPlayer {s u : State} (h : s.Twin u) (p : Player) : (s.setPlayer p).Twin (u.setPlayer p) := by
  obtain ⟨others, hsame, rfl⟩ := h
  exact ⟨others, hsame, rfl⟩

/-! ### Local operations -/

theorem local_comp {f g : State → State} (hf : Local f) (hg : Local g) : Local fun s => g (f s) :=
  fun s u h => hg _ _ (hf s u h)

theorem local_noHandler : Local noHandler := fun _ _ h => h

/-- A change of the current voice that reads no voice record but this one. -/
theorem local_onVoice (g : State → Voice → Voice) (hg : ∀ s others, g { s with ch := others } = g s) :
    Local fun s => s.onVoice (g s) := by
  intro s u h
  have hvoice : g u u.voice = g s s.voice := by
    rw [twin_voice h]
    obtain ⟨others, -, rfl⟩ := h
    rw [hg]
  change (s.setVoice (g s s.voice)).Twin (u.setVoice (g u u.voice))
  rw [hvoice]
  exact twin_setVoice h (g s s.voice)

/-- A change of the player registers that reads no voice record. -/
theorem local_onPlayer (g : State → Player → Player) (hg : ∀ s others, g { s with ch := others } = g s) :
    Local fun s => s.onPlayer (g s) := by
  intro s u h
  have hplayer : g u u.p = g s s.p := by
    obtain ⟨others, -, rfl⟩ := h
    rw [hg]
  change (s.setPlayer (g s s.p)).Twin (u.setPlayer (g u u.p))
  rw [hplayer]
  exact twin_setPlayer h (g s s.p)

/-- A conditional change of the current voice is a change of it. -/
theorem ite_onVoice (c : Prop) [Decidable c] (g : Voice → Voice) (s : State) :
    (if c then s.onVoice g else s) = s.onVoice fun v => if c then g v else v := by
  split
  · rfl
  · exact (setVoice_self s).symm

/-- A change of the current voice under a condition, neither of which reads another record. -/
theorem local_onVoice_if (c : State → Prop) [∀ s, Decidable (c s)] (g : State → Voice → Voice)
    (hc : ∀ s others, c { s with ch := others } ↔ c s) (hg : ∀ s others, g { s with ch := others } = g s) :
    Local fun s => if c s then s.onVoice (g s) else s := by
  have hlocal := local_onVoice (fun s v => if c s then g s v else v) fun s others => by simp only [hc, hg]
  simpa only [ite_onVoice] using hlocal

theorem local_loadCell (c : BitVec 4) (d n : BitVec 8) (q : BitVec 12) : Local (loadCell c d n q) :=
  local_onVoice_if (fun s => s.newRow = true) (fun s v => noteOn s.m n q (latch c d v)) (fun _ _ => Iff.rfl)
    fun _ _ => rfl

theorem local_loadDeferred (c : BitVec 4) (d : BitVec 8) : Local (loadDeferred c d) :=
  local_onVoice_if (fun s => s.newRow = true) (fun _ => latch c d) (fun _ _ => Iff.rfl) fun _ _ => rfl

theorem local_retrigger (y : BitVec 4) : Local (retrigger y) :=
  local_onVoice_if (fun s => y ≠ 0 ∧ s.p.tick.toNat % y.toNat = 0) (fun _ v => { v with samplepos := realZero })
    (fun _ _ => Iff.rfl) fun _ _ => rfl

theorem local_cutNote (y : BitVec 4) : Local (cutNote y) :=
  local_onVoice_if (fun s => s.p.tick.toNat = y.toNat) (fun _ v => { v with volume := 0 }) (fun _ _ => Iff.rfl)
    fun _ _ => rfl

theorem local_delayedNote (y : BitVec 4) : Local (delayedNote y) :=
  local_onVoice_if (fun s => s.p.tick.toNat = y.toNat)
    (fun s => noteOn s.m (cellSmp (s.memRead4 s.cellAddrNow)) (cellPeriod (s.memRead4 s.cellAddrNow)))
    (fun _ _ => Iff.rfl) fun _ _ => rfl

theorem local_dispatch {t0 t1 : State → State} (h0 : Local t0) (h1 : Local t1) : Local (dispatch t0 t1) := by
  intro s u h
  have hmarks : u.newTick = s.newTick ∧ u.p = s.p := by
    obtain ⟨others, -, rfl⟩ := h
    exact ⟨rfl, rfl⟩
  unfold dispatch
  rw [hmarks.1, hmarks.2]
  split
  · split
    · exact h0 s u h
    · exact h1 s u h
  · exact h

/-! ### Instructions -/

/-- The outcome is a next state, by a local operation. -/
def AnswersLocally (o : State → Host.Outcome State Fault Refusal) : Prop := ∃ f, Local f ∧ ∀ s, o s = .next (f s)

section Cells

variable (c : BitVec 4) (d n : BitVec 8) (q : BitVec 12)

/-- A cell with local handlers is local. -/
theorem runCell_local {t0 t1 : State → State} (h0 : Local t0) (h1 : Local t1) :
    AnswersLocally (runCell c d n q t0 t1) :=
  ⟨_, local_comp (local_loadCell c d n q) (local_dispatch h0 h1), fun _ => rfl⟩

/-- A cell whose handlers change the voice alone, by what they read of the player registers. -/
theorem runCell_voice_local (g0 g1 : Player → Voice → Voice) :
    AnswersLocally (runCell c d n q (fun s => s.onVoice (g0 s.p)) fun s => s.onVoice (g1 s.p)) :=
  runCell_local c d n q (local_onVoice _ fun _ _ => rfl) (local_onVoice _ fun _ _ => rfl)

/-- A cell whose only handler, at tick 0, changes the voice alone. -/
theorem runCell_voice0_local (g : Voice → Voice) : AnswersLocally (runCell c d n q (State.onVoice g) noHandler) :=
  runCell_local c d n q (local_onVoice (fun _ => g) fun _ _ => rfl) local_noHandler

/-- A cell whose only handler, after tick 0, changes the voice alone. -/
theorem runCell_voice1_local (g : Voice → Voice) : AnswersLocally (runCell c d n q noHandler (State.onVoice g)) :=
  runCell_local c d n q local_noHandler (local_onVoice (fun _ => g) fun _ _ => rfl)

/-- A cell whose only handler, at tick 0, changes the player registers, by what it reads of the descriptors. -/
theorem runCell_player_local (g : Module → Player → Player) :
    AnswersLocally (runCell c d n q (fun s => s.onPlayer (g s.m)) noHandler) :=
  runCell_local c d n q (local_onPlayer _ fun _ _ => rfl) local_noHandler

theorem runCell_noHandler_local : AnswersLocally (runCell c d n q noHandler noHandler) :=
  runCell_local c d n q local_noHandler local_noHandler

end Cells

/-- Every instruction is local. -/
theorem exec_local (i : Instr) : AnswersLocally (exec i) := by
  cases i with
  | arp smp period x y =>
    exact runCell_voice_local 0x0 (nibbles x y) smp period (fun _ v => { v with arpeggio := nibbles x y })
      fun p => arpeggioStep p.tick.toNat
  | portup smp period data => exact runCell_voice_local _ _ _ _ (fun _ => _) fun _ => _
  | portdn smp period data => exact runCell_voice_local _ _ _ _ (fun _ => _) fun _ => _
  | toneporta smp period data => exact runCell_voice_local _ _ _ _ (fun _ => _) fun _ => _
  | vibrato smp period x y => exact runCell_voice_local _ _ _ _ (fun _ => _) fun _ => _
  | tonevol smp period x y => exact runCell_voice1_local _ _ _ _ _
  | vibvol smp period x y => exact runCell_voice1_local _ _ _ _ _
  | nop7 smp period data => exact runCell_noHandler_local _ _ _ _
  | nop8 smp period data => exact runCell_noHandler_local _ _ _ _
  | offset smp period data => exact runCell_voice0_local _ _ _ _ _
  | volslide smp period x y => exact runCell_voice1_local _ _ _ _ _
  | jump smp period data => exact runCell_player_local _ _ _ _ fun _ => requestJump data
  | setvol smp period data => exact runCell_voice0_local _ _ _ _ _
  | brk smp period x y => exact runCell_player_local _ _ _ _ fun _ => requestBreak x y
  | speed smp period data => exact runCell_player_local _ _ _ _ fun _ => setSpeed data
  | filter smp period y => exact runCell_player_local _ _ _ _ fun m => setFilter m.nch y
  | fineup smp period y => exact runCell_voice0_local _ _ _ _ _
  | finedn smp period y => exact runCell_voice0_local _ _ _ _ _
  | nope3 smp period y => exact runCell_noHandler_local _ _ _ _
  | vibwave smp period y => exact runCell_voice0_local _ _ _ _ _
  | nope5 smp period y => exact runCell_noHandler_local _ _ _ _
  | loop smp period y => exact runCell_player_local _ _ _ _ fun _ => patternLoop y
  | nope7 smp period y => exact runCell_noHandler_local _ _ _ _
  | nope8 smp period y => exact runCell_noHandler_local _ _ _ _
  | retrig smp period y => exact runCell_local _ _ _ _ (local_retrigger y) (local_retrigger y)
  | finevolup smp period y => exact runCell_voice0_local _ _ _ _ _
  | finevoldn smp period y => exact runCell_voice0_local _ _ _ _ _
  | cut smp period y => exact runCell_local _ _ _ _ (local_cutNote y) (local_cutNote y)
  | delaynote smp period y =>
    exact ⟨_, local_comp (local_loadDeferred 0xE (nibbles 0xD y))
      (local_dispatch (local_delayedNote y) (local_delayedNote y)), fun _ => rfl⟩
  | delaypat smp period y => exact runCell_player_local _ _ _ _ fun _ => delayPattern y
  | nopef smp period y => exact runCell_noHandler_local _ _ _ _

/-! ### The channel step -/

theorem local_channelHead : Local channelHead := local_onVoice (fun _ => clearModulation) fun _ _ => rfl

/-- The fetch reads the current record at most. -/
theorem twin_fetchCell {s u : State} (h : s.Twin u) : fetchCell u = fetchCell s := by
  unfold fetchCell
  rw [twin_voice h]
  obtain ⟨others, -, rfl⟩ := h
  rfl

theorem twin_mixSounding {s u : State} (h : s.Twin u) (v : Voice) : (mixSounding s v).Twin (mixSounding u v) := by
  obtain ⟨others, hsame, rfl⟩ := h
  exact twin_setVoice (twin_setPlayer ⟨others, hsame, rfl⟩ _) _

theorem twin_mixSilent {s u : State} (h : s.Twin u) (v : Voice) : (mixSilent s v).Twin (mixSilent u v) := by
  obtain ⟨others, hsame, rfl⟩ := h
  exact twin_setVoice (twin_setPlayer ⟨others, hsame, rfl⟩ _) _

theorem local_channelTail : Local channelTail := by
  intro s u h
  have hvoice : updatePitch u.m u.p u.voice = updatePitch s.m s.p s.voice := by
    rw [twin_voice h]
    obtain ⟨others, -, rfl⟩ := h
    rfl
  have hselect := local_onPlayer (fun s p => { p with och := nextOch p.och s.chan }) (fun _ _ => rfl) s u h
  unfold channelTail
  dsimp only
  rw [hvoice]
  split
  · exact twin_mixSounding hselect _
  · exact twin_mixSilent hselect _

/-- The channel steps of twins end in twins. -/
theorem channelStep_twin {s u t : State} (h : s.Twin u) (hs : channelStep s = .next t) :
    AnswersNext (channelStep u) t.Twin := by
  have hhead := local_channelHead s u h
  obtain ⟨f, hlocal, hexec⟩ := exec_local (decodeCell (fetchCell (channelHead s)))
  have ht : t = channelTail (f (channelHead s)) := by
    rw [channelStep_eq (hexec _)] at hs
    exact (Host.Outcome.next.inj hs).symm
  rw [ht]
  exact ⟨_, channelStep_eq (by rw [twin_fetchCell hhead]; exact hexec _), local_channelTail _ _ (hlocal _ _ hhead)⟩

/-- Of the voice records a channel step writes the current channel's alone. -/
theorem channelStep_writes {s t : State} (h : channelStep s = .next t) :
    ∃ (v : Voice) (p : Player), t = (s.setVoice v).setPlayer p := by
  obtain ⟨u, hu, v, p, -, hreach⟩ := exec_reaches (decodeCell (fetchCell (channelHead s))) (channelHead s)
  obtain ⟨w, q, htail, -⟩ := channelTail_cases u
  rw [channelStep_eq hu] at h
  obtain rfl := Host.Outcome.next.inj h
  exact ⟨w, u.p.withMix q, by rw [htail, hreach, setVoice_setPlayer_twice, channelHead_setVoice]⟩

/-- Settles O17: the step writes one record, and its twin's step ends in a twin of its end. -/
theorem channelStepIgnoresOtherChannels : Obligations.ChannelStepIgnoresOtherChannels := by
  intro s t others hsame h
  obtain ⟨v, p, rfl⟩ := channelStep_writes h
  obtain ⟨u, hu, others', hsame', hut⟩ := channelStep_twin ⟨others, hsame, rfl⟩ h
  obtain ⟨w, q, hw⟩ := channelStep_writes hu
  have hothers : others' = others.set s.chan w := congrArg State.ch (hut.symm.trans hw)
  have hrecord : others'[s.chan] = ((s.setVoice v).setPlayer p).ch[s.chan] := hsame'
  refine ⟨setVoice_other s v, ?_⟩
  rw [hu, hut, ← hrecord, hothers]
  simp

end Sys2Proof.Machine
end

section
/-! PROOFS. The player registers keep their ranges (10_state.md R43 to R57): under the marks' own operations, under the
instructions' handlers, and under ADVANCE, step by step. -/

namespace Sys2Proof.Machine

/-! ### The marks, bit by bit (10_state.md R47) -/

/-- The reserved bits are 0, and a new-row frame is a new-tick frame. -/
structure SaneMarks (f : BitVec 8) : Prop where
  bit3 : f[3] = false
  bit5 : f[5] = false
  bit7 : f[7] = false
  row_tick : f[1] = true → f[0] = true

theorem and_reserved_eq_zero (f : BitVec 8) : f &&& 0xA8 = 0 ↔ f[3] = false ∧ f[5] = false ∧ f[7] = false := by
  revert f
  decide

theorem and_frameMarks_eq_zero (f : BitVec 8) : f &&& 0x07 = 0 ↔ f[0] = false ∧ f[1] = false ∧ f[2] = false := by
  revert f
  decide

theorem flag_newTickBit (p : Player) : p.flag newTickBit = p.flags[0] := by
  simp only [Player.flag]
  generalize p.flags = f
  revert f
  decide

theorem flag_newRowBit (p : Player) : p.flag newRowBit = p.flags[1] := by
  simp only [Player.flag]
  generalize p.flags = f
  revert f
  decide

theorem and_mask_eq_zero {f k m : BitVec 8} (h : k &&& m = 0) : (f &&& k) &&& m = 0 := by
  rw [BitVec.and_assoc, h]
  exact BitVec.and_zero

theorem or_mask_eq_zero {f b m : BitVec 8} (hf : f &&& m = 0) (hb : b &&& m = 0) : (f ||| b) &&& m = 0 := by
  rw [BitVec.and_or_distrib_right, hf, hb]
  rfl

theorem newTick_raised (f : BitVec 8) : (f ||| newTickBit)[0] = true := by
  rw [BitVec.getElem_or, show newTickBit[0] = true by decide, Bool.or_true]

/-- NEWTICK survives a mask that keeps it. -/
theorem newTick_and {f k : BitVec 8} (hf : f[0] = true) (hk : k[0] = true) : (f &&& k)[0] = true := by
  rw [BitVec.getElem_and, hf, hk]
  rfl

theorem saneMarks_or {f b : BitVec 8} (hf : SaneMarks f) (hb : SaneMarks b) : SaneMarks (f ||| b) where
  bit3 := by rw [BitVec.getElem_or, hf.bit3, hb.bit3, Bool.or_false]
  bit5 := by rw [BitVec.getElem_or, hf.bit5, hb.bit5, Bool.or_false]
  bit7 := by rw [BitVec.getElem_or, hf.bit7, hb.bit7, Bool.or_false]
  row_tick h := by
    rw [BitVec.getElem_or, Bool.or_eq_true] at h ⊢
    exact h.imp hf.row_tick hb.row_tick

/-- A mask keeps the marks sane that does not take NEWTICK without NEWROW. -/
theorem saneMarks_and {f k : BitVec 8} (hf : SaneMarks f) (hk : k[1] = true → k[0] = true) :
    SaneMarks (f &&& k) where
  bit3 := by rw [BitVec.getElem_and, hf.bit3, Bool.false_and]
  bit5 := by rw [BitVec.getElem_and, hf.bit5, Bool.false_and]
  bit7 := by rw [BitVec.getElem_and, hf.bit7, Bool.false_and]
  row_tick h := by
    rw [BitVec.getElem_and, Bool.and_eq_true] at h ⊢
    exact h.imp hf.row_tick hk

theorem saneMarks_or_newRow {f : BitVec 8} (hf : SaneMarks f) (h0 : f[0] = true) : SaneMarks (f ||| newRowBit) where
  bit3 := by rw [BitVec.getElem_or, hf.bit3]; rfl
  bit5 := by rw [BitVec.getElem_or, hf.bit5]; rfl
  bit7 := by rw [BitVec.getElem_or, hf.bit7]; rfl
  row_tick _ := by rw [BitVec.getElem_or, h0, Bool.true_or]

theorem saneMarks_break : SaneMarks breakBit := ⟨rfl, rfl, rfl, by decide⟩
theorem saneMarks_loop : SaneMarks loopBit := ⟨rfl, rfl, rfl, by decide⟩
theorem saneMarks_newTick : SaneMarks newTickBit := ⟨rfl, rfl, rfl, by decide⟩
theorem saneMarks_newPos : SaneMarks newPosBit := ⟨rfl, rfl, rfl, by decide⟩

/-! ### The ranges that hold in the middle of ADVANCE too -/

/-- The part of `Player.Ok` that every step of ADVANCE keeps. -/
structure Player.Base (p : Player) : Prop where
  speed_pos : 1 ≤ p.speed.toNat
  speed_le : p.speed.toNat ≤ 32
  bpm_ge : 33 ≤ p.bpm.toNat
  rate_pos : 1 ≤ p.sampleRate.toNat
  offset_le : p.offset.toNat ≤ maxSamplesPerTick
  breakRow_le : p.breakRow.toNat ≤ 165
  wait_le : p.patternWait.toNat ≤ p.patternDelay.toNat
  marks : SaneMarks p.flags
  err_le : p.err.toNat ≤ 1
  valid_no_err : p.valid = true → p.err = 0

theorem Player.Ok.base {p : Player} (h : p.Ok) : p.Base where
  speed_pos := h.speed_pos
  speed_le := h.speed_le
  bpm_ge := h.bpm_ge
  rate_pos := h.rate_pos
  offset_le := h.offset_le
  breakRow_le := h.breakRow_le
  wait_le := h.wait_le
  marks := by
    obtain ⟨h3, h5, h7⟩ := (and_reserved_eq_zero p.flags).mp h.reserved_zero
    have hrow := h.row_marks_tick
    rw [flag_newRowBit, flag_newTickBit] at hrow
    exact ⟨h3, h5, h7, hrow⟩
  err_le := h.err_le
  valid_no_err := h.valid_no_err

theorem Player.Base.ok {p : Player} (h : p.Base) (row_lt : p.row.toNat < 64) (tick_lt : p.tick.toNat < p.speed.toNat)
    (position_le : p.songPosition.toNat ≤ 256) (position_playing : p.endOfSong = false → p.songPosition.toNat ≤ 254)
    (ended_no_marks : p.endOfSong = true → p.flags &&& 0x07 = 0) : p.Ok where
  speed_pos := h.speed_pos
  speed_le := h.speed_le
  bpm_ge := h.bpm_ge
  rate_pos := h.rate_pos
  row_lt := row_lt
  tick_lt := tick_lt
  offset_le := h.offset_le
  breakRow_le := h.breakRow_le
  wait_le := h.wait_le
  reserved_zero := (and_reserved_eq_zero p.flags).mpr ⟨h.marks.bit3, h.marks.bit5, h.marks.bit7⟩
  row_marks_tick := by
    rw [flag_newRowBit, flag_newTickBit]
    exact h.marks.row_tick
  err_le := h.err_le
  valid_no_err := h.valid_no_err
  position_le := position_le
  position_playing := position_playing
  ended_no_marks := ended_no_marks

/-- A change of marks that raises none of the one-frame marks and leaves the others sane keeps the ranges. -/
theorem Player.Ok.withFlags {p : Player} (h : p.Ok) {f : BitVec 8} (hf : SaneMarks f)
    (hframe : p.flags &&& 0x07 = 0 → f &&& 0x07 = 0) : Player.Ok { p with flags := f } :=
  Player.Base.ok { h.base with marks := hf } h.row_lt h.tick_lt h.position_le h.position_playing
    fun hend => hframe (h.ended_no_marks hend)

/-- BREAK and LOOP can be raised at any time. -/
theorem Player.Ok.raise {p : Player} (h : p.Ok) {b : BitVec 8} (hb : SaneMarks b) (hframe : b &&& 0x07 = 0) :
    Player.Ok { p with flags := p.flags ||| b } :=
  h.withFlags (saneMarks_or h.base.marks hb) fun h0 => or_mask_eq_zero h0 hframe

/-- The frame's end keeps the ranges (40_sequencer.md R163). -/
theorem Player.Ok.endFrame {p : Player} (h : p.Ok) : Player.Ok { p with flags := p.flags &&& pendingMask } :=
  h.withFlags (saneMarks_and h.base.marks (by decide)) fun _ => and_mask_eq_zero (by decide)

/-! ### The handlers of the flow effects, at tick 0 -/

theorem requestJump_ok (d : BitVec 8) {p : Player} (h : p.Ok) : (requestJump d p).Ok :=
  { h.raise saneMarks_break (by decide) with breakRow_le := Nat.zero_le _ }

theorem decimalRow_le (x y : BitVec 4) : (decimalRow x y).toNat ≤ 165 := by
  have hx := x.isLt
  have hy := y.isLt
  rw [decimalRow, BitVec.toNat_ofNat]
  exact (Nat.mod_le _ _).trans (by omega)

theorem requestBreak_ok (x y : BitVec 4) {p : Player} (h : p.Ok) : (requestBreak x y p).Ok :=
  { h.raise saneMarks_break (by decide) with breakRow_le := decimalRow_le x y }

/-- A new speed is set at tick 0 alone, so the tick is below it (43_flow_effects.md R235). -/
theorem setSpeed_ok (d : BitVec 8) {p : Player} (htick : p.tick = 0) (h : p.Ok) : (setSpeed d p).Ok := by
  unfold setSpeed
  split
  · next hbpm => exact { h with bpm_ge := hbpm }
  · split
    · next hle hne =>
      have hpos : d.toNat ≠ 0 := fun h0 => hne (BitVec.eq_of_toNat_eq h0)
      have hspeed : (BitVec.ofNat 6 d.toNat).toNat = d.toNat := by
        rw [BitVec.toNat_ofNat]
        omega
      have h0 : p.tick.toNat = 0 := by rw [htick]; rfl
      exact { h with
        speed_pos := by dsimp only; omega
        speed_le := by dsimp only; omega
        tick_lt := by dsimp only; omega }
    · exact h

theorem setFilter_ok (nch : BitVec 5) (y : BitVec 4) {p : Player} (h : p.Ok) : (setFilter nch y p).Ok := by
  unfold setFilter
  split
  · exact { h with }
  · exact h

theorem patternLoop_ok (y : BitVec 4) {p : Player} (h : p.Ok) : (patternLoop y p).Ok := by
  unfold patternLoop
  split
  · exact { h with }
  · split
    · exact { h.raise saneMarks_loop (by decide) with }
    · exact { h with }

theorem delayPattern_ok (y : BitVec 4) {p : Player} (h : p.Ok) : (delayPattern y p).Ok := by
  unfold delayPattern
  split
  · exact { h with wait_le := Nat.zero_le _ }
  · exact h

/-! ### ADVANCE (40_sequencer.md R153 to R162) -/

/-- After step 2: the tick may have reached the speed, and then this is a new-tick frame. -/
structure Player.AfterTick (p : Player) : Prop where
  base : p.Base
  row_lt : p.row.toNat < 64
  tick_le : p.tick.toNat ≤ p.speed.toNat
  tick_marked : p.tick.toNat = p.speed.toNat → p.flags[0] = true
  position_le : p.songPosition.toNat ≤ 254
  not_ended : p.endOfSong = false

/-- After step 3: the tick is below the speed again, and a break may have set any row and any position. -/
structure Player.AfterRow (p : Player) : Prop where
  base : p.Base
  tick_lt : p.tick.toNat < p.speed.toNat
  position_le : p.songPosition.toNat ≤ 255
  not_ended : p.endOfSong = false

/-- After step 4: the row is below 64 again, and the position may lie past the song's end. -/
structure Player.AfterPosition (p : Player) : Prop where
  base : p.Base
  row_lt : p.row.toNat < 64
  tick_lt : p.tick.toNat < p.speed.toNat
  position_le : p.songPosition.toNat ≤ 256
  not_ended : p.endOfSong = false

theorem samplesPerTick_le {rate rate' bpm bpm' : Nat} (hrate : rate ≤ rate') (hbpm : bpm' ≤ bpm) (h0 : bpm' ≠ 0) :
    samplesPerTick rate bpm ≤ samplesPerTick rate' bpm' :=
  Nat.div_le_div_right (Nat.div_le_div_right (Nat.div_le_div (Nat.mul_le_mul_right 60 hrate) hbpm h0))

/-- No rate and no bpm of at least 33 give more samples per tick than the largest rate and 33. -/
theorem spt_le {p : Player} (h : p.Base) : p.spt ≤ maxSamplesPerTick :=
  samplesPerTick_le (Nat.le_sub_one_of_lt p.sampleRate.isLt) h.bpm_ge (by decide)

theorem advanceTick_after {p : Player} (h : p.Ok) (hend : p.endOfSong = false) : (advanceTick p).AfterTick := by
  have hspeed := h.speed_le
  have htick := h.tick_lt
  have hposition := h.position_playing hend
  unfold advanceTick
  dsimp only
  split
  · have hnext : (BitVec.ofNat 6 (p.tick.toNat + 1)).toNat = p.tick.toNat + 1 := by
      rw [BitVec.toNat_ofNat]
      omega
    exact {
      base := { h.base with
        offset_le := Nat.zero_le _
        marks := saneMarks_or h.base.marks saneMarks_newTick }
      row_lt := h.row_lt
      tick_le := by dsimp only; omega
      tick_marked := fun _ => newTick_raised p.flags
      position_le := hposition
      not_ended := hend }
  · next hoffset =>
    have hle : (BitVec.ofNat 32 (p.offset.toNat + 1)).toNat ≤ p.offset.toNat + 1 := by
      rw [BitVec.toNat_ofNat]
      exact Nat.mod_le _ _
    exact {
      base := { h.base with offset_le := hle.trans ((Nat.le_of_not_lt hoffset).trans (spt_le h.base)) }
      row_lt := h.row_lt
      tick_le := htick.le
      tick_marked := fun htop => absurd htop htick.ne
      position_le := hposition
      not_ended := hend }

/-- The choice of the next row keeps the ranges, and so the tick's mark; the row it gives is bounded by step 4. -/
theorem resolveRow_base {p : Player} (h : p.Base) (hmark : p.flags[0] = true) (hposition : p.songPosition.toNat ≤ 254) :
    (resolveRow p).Base ∧ (resolveRow p).flags[0] = true ∧ (resolveRow p).songPosition.toNat ≤ 255 := by
  unfold resolveRow
  split
  · exact ⟨{ h with marks := saneMarks_and h.marks (by decide) }, newTick_and hmark (by decide),
      hposition.trans (by decide)⟩
  · split
    · refine ⟨{ h with marks := saneMarks_and h.marks (by decide), breakRow_le := Nat.zero_le _ },
        newTick_and hmark (by decide), ?_⟩
      have hjump := p.patternJump.isLt
      rw [resolveBreak, BitVec.toNat_ofNat]
      omega
    · exact ⟨{ h with }, hmark, hposition.trans (by decide)⟩

theorem resolveRow_endOfSong (p : Player) : (resolveRow p).endOfSong = p.endOfSong := by
  unfold resolveRow
  split
  · rfl
  · split <;> rfl

theorem changeRow_after {p : Player} (h : p.Base) (hmark : p.flags[0] = true) (hposition : p.songPosition.toNat ≤ 254)
    (hend : p.endOfSong = false) : (changeRow p).AfterRow := by
  obtain ⟨hbase, hmark', hposition'⟩ := resolveRow_base h hmark hposition
  exact {
    base := { hbase with marks := saneMarks_or_newRow hbase.marks hmark' }
    tick_lt := hbase.speed_pos
    position_le := hposition'
    not_ended := (resolveRow_endOfSong p).trans hend }

theorem delayPending_lt {p : Player} (h : p.delayPending = true) : p.patternWait.toNat < p.patternDelay.toNat := by
  rw [Player.delayPending, Bool.and_eq_true] at h
  exact of_decide_eq_true h.2

theorem advanceRow_after {p : Player} (h : p.AfterTick) : (advanceRow p).AfterRow := by
  unfold advanceRow
  split
  · next htop =>
    have hmark : p.flags[0] = true := h.tick_marked (Nat.le_antisymm h.tick_le htop)
    split
    · next hdelay =>
      have hlt := delayPending_lt hdelay
      have hwait : (BitVec.ofNat 4 (p.patternWait.toNat + 1)).toNat ≤ p.patternDelay.toNat := by
        rw [BitVec.toNat_ofNat]
        omega
      exact {
        base := { h.base with wait_le := hwait }
        tick_lt := h.base.speed_pos
        position_le := h.position_le.trans (by decide)
        not_ended := h.not_ended }
    · exact changeRow_after { h.base with wait_le := Nat.le_refl _ } hmark h.position_le h.not_ended
  · next hlow =>
    exact {
      base := h.base
      tick_lt := Nat.lt_of_not_le hlow
      position_le := h.position_le.trans (by decide)
      not_ended := h.not_ended }

theorem advancePosition_after {p : Player} (h : p.AfterRow) : (advancePosition p).AfterPosition := by
  have hposition := h.position_le
  unfold advancePosition
  split
  · have hnext : (BitVec.ofNat 9 (p.songPosition.toNat + 1)).toNat ≤ 256 := by
      rw [BitVec.toNat_ofNat]
      omega
    exact {
      base := { h.base with marks := saneMarks_or h.base.marks saneMarks_newPos }
      row_lt := Nat.zero_lt_succ 63
      tick_lt := h.tick_lt
      position_le := hnext
      not_ended := h.not_ended }
  · next hrow =>
    exact {
      base := h.base
      row_lt := Nat.lt_of_not_le hrow
      tick_lt := h.tick_lt
      position_le := hposition.trans (by decide)
      not_ended := h.not_ended }

/-- Step 5 leaves a playing song at a position inside it, or marks nothing at the end of the song. -/
theorem checkSongEnd_ok (songLength : BitVec 8) {p : Player} (h : p.AfterPosition) : (checkSongEnd songLength p).Ok := by
  have hlength := songLength.isLt
  unfold checkSongEnd
  split
  · split
    · exact Player.Base.ok { h.base with } h.row_lt h.tick_lt (Nat.zero_le _) (fun _ => Nat.zero_le _)
        fun hend => absurd hend (by rw [h.not_ended]; decide)
    · exact Player.Base.ok { h.base with marks := saneMarks_and h.base.marks (by decide) } h.row_lt h.tick_lt
        h.position_le nofun fun _ => and_mask_eq_zero (by decide)
  · next hinside =>
    exact h.base.ok h.row_lt h.tick_lt h.position_le (fun _ => by omega)
      fun hend => absurd hend (by rw [h.not_ended]; decide)

/-- ADVANCE keeps the ranges of the player registers while the song lasts. -/
theorem advance_ok (songLength : BitVec 8) {p : Player} (h : p.Ok) (hend : p.endOfSong = false) :
    (advance songLength p).Ok :=
  checkSongEnd_ok songLength (advancePosition_after (advanceRow_after (advanceTick_after h hend)))

end Sys2Proof.Machine
end

section
/-! PROOFS. What an instruction keeps: the ranges of the player registers, and the note, the period and the slide target of
its voice (10_state.md R23, R32, R33). -/

namespace Sys2Proof.Machine

/-! ### The voice operations -/

theorem notePart_pitched (q : BitVec 12) {v : Voice} (hv : v.Pitched) : (notePart q v).Pitched := by
  by_cases hq : q = 0
  · rw [hq, notePart_zero]
    exact hv
  · have hpos : 1 ≤ q.toNat := Nat.one_le_iff_ne_zero.mpr fun h0 => hq (BitVec.eq_of_toNat_eq h0)
    by_cases hporta : v.command = 3 ∨ v.command = 5
    · rw [notePart_suppressed q v hq hporta]
      exact { hv with slideto_pos := hpos }
    · obtain ⟨h3, h5⟩ := not_or.mp hporta
      rw [notePart_struck q v hq h3 h5]
      exact { hv with period_pos := hpos, slideto_pos := hpos }

theorem samplePart_pitched (m : Module) (n : BitVec 8) {v : Voice} (hv : v.Pitched) : (samplePart m n v).Pitched := by
  unfold samplePart
  split
  · exact hv.congr rfl rfl rfl
  · exact hv

theorem noteOn_pitched (m : Module) (n : BitVec 8) (q : BitVec 12) {v : Voice} (hv : v.Pitched) :
    (noteOn m n q v).Pitched :=
  samplePart_pitched m n (notePart_pitched q hv)

theorem clampP_pos (p : Int) : 1 ≤ (clampP p).toNat := by
  rw [clampP, BitVec.toNat_ofInt]
  omega

theorem slidePeriod_pitched (delta : Int) {v : Voice} (hv : v.Pitched) : (slidePeriod delta v).Pitched :=
  { hv with period_pos := clampP_pos _ }

/-- A step towards a target does not pass it, so it stays positive (41_pitch_effects.md R181). -/
theorem stepPeriod_pos {period target : BitVec 12} (speed : BitVec 8) (hperiod : 1 ≤ period.toNat)
    (htarget : 1 ≤ target.toNat) : 1 ≤ (stepPeriod period target speed).toNat := by
  have hp := period.isLt
  have ht := target.isLt
  unfold stepPeriod
  split
  · rw [BitVec.toNat_ofInt]
    omega
  · split
    · rw [BitVec.toNat_ofInt]
      omega
    · exact hperiod

theorem stepToTarget_pitched {v : Voice} (hv : v.Pitched) : (stepToTarget v).Pitched :=
  { hv with period_pos := stepPeriod_pos v.slidetospeed hv.period_pos hv.slideto_pos }

theorem volumeSlide_pitched (x y : BitVec 4) {v : Voice} (hv : v.Pitched) : (volumeSlide x y v).Pitched := by
  unfold volumeSlide
  split
  · exact hv.congr rfl rfl rfl
  · split
    · exact hv.congr rfl rfl rfl
    · exact hv

theorem storeSlideSpeed_pitched (d : BitVec 8) {v : Voice} (hv : v.Pitched) : (storeSlideSpeed d v).Pitched := by
  unfold storeSlideSpeed
  split
  · exact hv.congr rfl rfl rfl
  · exact hv

theorem storeTargetSpeed_pitched (d : BitVec 8) {v : Voice} (hv : v.Pitched) : (storeTargetSpeed d v).Pitched := by
  unfold storeTargetSpeed
  split
  · exact hv.congr rfl rfl rfl
  · exact hv

theorem vibratoStep_pitched {v : Voice} (hv : v.Pitched) : (vibratoStep v).Pitched := hv.congr rfl rfl rfl

theorem arpeggioStep_pitched (tick : Nat) {v : Voice} (hv : v.Pitched) : (arpeggioStep tick v).Pitched := by
  unfold arpeggioStep
  split
  · exact hv.congr rfl rfl rfl
  · exact hv

/-! ### The handlers and the cells -/

/-- From `s` to `t` the ranges of the player registers and the pitch of the current voice are kept. -/
structure State.Keeps (s t : State) : Prop where
  player : s.p.Ok → t.p.Ok
  voice : s.voice.Pitched → t.voice.Pitched

theorem keeps_refl (s : State) : s.Keeps s := ⟨id, id⟩

theorem keeps_trans {s t u : State} (h : s.Keeps t) (h' : t.Keeps u) : s.Keeps u :=
  ⟨fun hs => h'.player (h.player hs), fun hs => h'.voice (h.voice hs)⟩

theorem keeps_onVoice (s : State) {g : Voice → Voice} (hg : ∀ v : Voice, v.Pitched → (g v).Pitched) :
    s.Keeps (s.onVoice g) :=
  ⟨id, fun hs => by rw [onVoice_voice]; exact hg s.voice hs⟩

theorem keeps_onPlayer (s : State) {g : Player → Player} (hg : s.p.Ok → (g s.p).Ok) : s.Keeps (s.onPlayer g) :=
  ⟨hg, id⟩

theorem loadCell_keeps (k : BitVec 4) (d n : BitVec 8) (q : BitVec 12) (s : State) : s.Keeps (loadCell k d n q s) := by
  unfold loadCell
  split
  · exact keeps_onVoice s fun v hv => noteOn_pitched s.m n q (hv.congr rfl rfl rfl)
  · exact keeps_refl s

theorem loadDeferred_keeps (k : BitVec 4) (d : BitVec 8) (s : State) : s.Keeps (loadDeferred k d s) := by
  unfold loadDeferred
  split
  · exact keeps_onVoice s fun v hv => hv.congr rfl rfl rfl
  · exact keeps_refl s

theorem retrigger_keeps (y : BitVec 4) (s : State) : s.Keeps (retrigger y s) := by
  unfold retrigger
  split
  · exact keeps_onVoice s fun v hv => hv.congr rfl rfl rfl
  · exact keeps_refl s

theorem cutNote_keeps (y : BitVec 4) (s : State) : s.Keeps (cutNote y s) := by
  unfold cutNote
  split
  · exact keeps_onVoice s fun v hv => hv.congr rfl rfl rfl
  · exact keeps_refl s

theorem delayedNote_keeps (y : BitVec 4) (s : State) : s.Keeps (delayedNote y s) := by
  unfold delayedNote
  split
  · exact keeps_onVoice s fun v hv => noteOn_pitched s.m _ _ hv
  · exact keeps_refl s

/-- The tick-0 handler may use that the tick is 0. -/
theorem dispatch_keeps {t0 t1 : State → State} (h0 : ∀ u : State, u.p.tick = 0 → u.Keeps (t0 u))
    (h1 : ∀ u : State, u.Keeps (t1 u)) (s : State) : s.Keeps (dispatch t0 t1 s) := by
  unfold dispatch
  split
  · split
    · next htick => exact h0 s htick
    · exact h1 s
  · exact keeps_refl s

section Cells

variable (k : BitVec 4) (d n : BitVec 8) (q : BitVec 12) (s : State)

theorem runCell_keepsRanges {t0 t1 : State → State} (h0 : ∀ u : State, u.p.tick = 0 → u.Keeps (t0 u))
    (h1 : ∀ u : State, u.Keeps (t1 u)) : AnswersNext (runCell k d n q t0 t1 s) s.Keeps :=
  ⟨_, rfl, keeps_trans (loadCell_keeps k d n q s) (dispatch_keeps h0 h1 _)⟩

/-- A cell whose handlers change the voice alone. -/
theorem runCell_voice_keeps {g0 g1 : State → Voice → Voice} (h0 : ∀ u (v : Voice), v.Pitched → (g0 u v).Pitched)
    (h1 : ∀ u (v : Voice), v.Pitched → (g1 u v).Pitched) :
    AnswersNext (runCell k d n q (fun u => u.onVoice (g0 u)) (fun u => u.onVoice (g1 u)) s) s.Keeps :=
  runCell_keepsRanges k d n q s (fun u _ => keeps_onVoice u (h0 u)) fun u => keeps_onVoice u (h1 u)

/-- A cell whose only handler, at tick 0, changes the voice alone. -/
theorem runCell_voice0_keeps {g : Voice → Voice} (hg : ∀ v : Voice, v.Pitched → (g v).Pitched) :
    AnswersNext (runCell k d n q (State.onVoice g) noHandler s) s.Keeps :=
  runCell_keepsRanges k d n q s (fun u _ => keeps_onVoice u hg) keeps_refl

/-- A cell whose only handler, after tick 0, changes the voice alone. -/
theorem runCell_voice1_keeps {g : Voice → Voice} (hg : ∀ v : Voice, v.Pitched → (g v).Pitched) :
    AnswersNext (runCell k d n q noHandler (State.onVoice g) s) s.Keeps :=
  runCell_keepsRanges k d n q s (fun u _ => keeps_refl u) fun u => keeps_onVoice u hg

/-- A cell whose only handler, at tick 0, changes the player registers. -/
theorem runCell_player_keeps {g : State → Player → Player}
    (hg : ∀ u (p : Player), p.tick = 0 → p.Ok → (g u p).Ok) :
    AnswersNext (runCell k d n q (fun u => u.onPlayer (g u)) noHandler s) s.Keeps :=
  runCell_keepsRanges k d n q s (fun u htick => keeps_onPlayer u (hg u u.p htick)) keeps_refl

theorem runCell_noHandler_keeps : AnswersNext (runCell k d n q noHandler noHandler s) s.Keeps :=
  runCell_keepsRanges k d n q s (fun u _ => keeps_refl u) keeps_refl

end Cells

/-- Every instruction keeps the ranges of the player registers and the pitch of its voice. -/
theorem exec_keeps (i : Instr) (s : State) : AnswersNext (exec i s) s.Keeps := by
  cases i with
  | arp smp period x y =>
    exact runCell_voice_keeps _ _ _ _ s (fun _ _ hv => hv.congr rfl rfl rfl)
      fun u _ => arpeggioStep_pitched u.p.tick.toNat
  | portup smp period data =>
    exact runCell_voice_keeps _ _ _ _ s (fun _ _ => storeSlideSpeed_pitched data) fun _ _ => slidePeriod_pitched _
  | portdn smp period data =>
    exact runCell_voice_keeps _ _ _ _ s (fun _ _ => storeSlideSpeed_pitched data) fun _ _ => slidePeriod_pitched _
  | toneporta smp period data =>
    exact runCell_voice_keeps _ _ _ _ s (fun _ _ => storeTargetSpeed_pitched data) fun _ _ => stepToTarget_pitched
  | vibrato smp period x y =>
    exact runCell_voice_keeps _ _ _ _ s (fun _ _ hv => vibratoStep_pitched (hv.congr rfl rfl rfl))
      fun _ _ => vibratoStep_pitched
  | tonevol smp period x y =>
    exact runCell_voice1_keeps _ _ _ _ s fun _ hv => volumeSlide_pitched x y (stepToTarget_pitched hv)
  | vibvol smp period x y =>
    exact runCell_voice1_keeps _ _ _ _ s fun _ hv => volumeSlide_pitched x y (vibratoStep_pitched hv)
  | nop7 smp period data => exact runCell_noHandler_keeps _ _ _ _ s
  | nop8 smp period data => exact runCell_noHandler_keeps _ _ _ _ s
  | offset smp period data => exact runCell_voice0_keeps _ _ _ _ s fun _ hv => hv.congr rfl rfl rfl
  | volslide smp period x y => exact runCell_voice1_keeps _ _ _ _ s fun _ => volumeSlide_pitched x y
  | jump smp period data => exact runCell_player_keeps _ _ _ _ s fun _ _ _ => requestJump_ok data
  | setvol smp period data => exact runCell_voice0_keeps _ _ _ _ s fun _ hv => hv.congr rfl rfl rfl
  | brk smp period x y => exact runCell_player_keeps _ _ _ _ s fun _ _ _ => requestBreak_ok x y
  | speed smp period data => exact runCell_player_keeps _ _ _ _ s fun _ _ => setSpeed_ok data
  | filter smp period y => exact runCell_player_keeps _ _ _ _ s fun u _ _ => setFilter_ok u.m.nch y
  | fineup smp period y => exact runCell_voice0_keeps _ _ _ _ s fun _ => slidePeriod_pitched _
  | finedn smp period y => exact runCell_voice0_keeps _ _ _ _ s fun _ => slidePeriod_pitched _
  | nope3 smp period y => exact runCell_noHandler_keeps _ _ _ _ s
  | vibwave smp period y => exact runCell_voice0_keeps _ _ _ _ s fun _ hv => hv.congr rfl rfl rfl
  | nope5 smp period y => exact runCell_noHandler_keeps _ _ _ _ s
  | loop smp period y => exact runCell_player_keeps _ _ _ _ s fun _ _ _ => patternLoop_ok y
  | nope7 smp period y => exact runCell_noHandler_keeps _ _ _ _ s
  | nope8 smp period y => exact runCell_noHandler_keeps _ _ _ _ s
  | retrig smp period y =>
    exact runCell_keepsRanges _ _ _ _ s (fun u _ => retrigger_keeps y u) (retrigger_keeps y)
  | finevolup smp period y => exact runCell_voice0_keeps _ _ _ _ s fun _ hv => hv.congr rfl rfl rfl
  | finevoldn smp period y => exact runCell_voice0_keeps _ _ _ _ s fun _ hv => hv.congr rfl rfl rfl
  | cut smp period y => exact runCell_keepsRanges _ _ _ _ s (fun u _ => cutNote_keeps y u) (cutNote_keeps y)
  | delaynote smp period y =>
    exact ⟨_, rfl, keeps_trans (loadDeferred_keeps 0xE (nibbles 0xD y) s)
      (dispatch_keeps (fun u _ => delayedNote_keeps y u) (delayedNote_keeps y) _)⟩
  | delaypat smp period y => exact runCell_player_keeps _ _ _ _ s fun _ _ _ => delayPattern_ok y
  | nopef smp period y => exact runCell_noHandler_keeps _ _ _ _ s

/-! ### The channel step -/

/-- A channel step writes its voice, which meets its ranges after it, and the player registers, whose ranges it keeps; it
moves `och` on (44_mixer.md R271) and leaves the gate. -/
theorem channelStep_keeps {s t : State} (h : channelStep s = .next t) :
    ∃ (v : Voice) (p : Player), t = (s.setVoice v).setPlayer p ∧ (s.voice.Pitched → v.Ok) ∧ (s.p.Ok → p.Ok) ∧
      p.och = nextOch s.p.och s.chan ∧ p.valid = s.p.valid ∧ p.settings = s.p.settings := by
  obtain ⟨u, hu, hkeeps⟩ := exec_keeps (decodeCell (fetchCell (channelHead s))) (channelHead s)
  obtain ⟨u', hu', v, p, ⟨q, raised, -, hp⟩, hreach⟩ :=
    exec_reaches (decodeCell (fetchCell (channelHead s))) (channelHead s)
  obtain rfl : u = u' := Host.Outcome.next.inj (hu.symm.trans hu')
  obtain ⟨w, r, htail, hflags, hoch, hpitch⟩ := channelTail_cases u
  rw [channelStep_eq hu] at h
  obtain rfl := Host.Outcome.next.inj h
  have hplayer : u.p = s.p.withShared q raised := by rw [hreach, hp]; rfl
  have hchan : u.chan = s.chan := by rw [hreach]; rfl
  refine ⟨w, u.p.withMix r, ?_, fun hv => ?_, fun hok => ?_, ?_, ?_, ?_⟩
  · rw [htail, hreach, setVoice_setPlayer_twice, channelHead_setVoice]
  · have hhead : (channelHead s).voice.Pitched := by
      rw [channelHead_voice]
      exact hv.congr rfl rfl rfl
    have hw := hpitch (hkeeps.voice hhead)
    exact ⟨hflags, hw.note_le, hw.period_pos, hw.slideto_pos⟩
  · exact { hkeeps.player hok with }
  · change r.och = _
    rw [hoch, hplayer, hchan]
    rfl
  · rw [hplayer]
    rfl
  · rw [hplayer]
    rfl

end Sys2Proof.Machine
end

section
/-! PROOFS. The machine's invariant (10_state.md R70, R72): what PARSE leaves in the descriptors, and then every step keeps
the invariant, in two parts, the ranges of the registers and where a frame stands. -/

namespace Sys2Proof.Machine

/-! ### What PARSE leaves in the descriptors (20_memory.md R88 to R92) -/

theorem vectorOf_getElem {α : Type} {n : Nat} (f : Nat → α) (i : Fin n) : (vectorOf n f)[i] = f i := by
  simp [vectorOf]

theorem headerLength_even (s : State) (k : Nat) : s.headerLength k % 2 = 0 := Nat.mul_mod_right 2 _

theorem headerLength_lt (s : State) (k : Nat) : s.headerLength k < 2 ^ 17 := by
  have h := (s.memRead2 (headerAddr k + 22)).isLt
  rw [State.headerLength]
  omega

/-- After the range correction the loop starts within the sample and is not 2 long; it never grows. -/
theorem normaliseLoop_range (length loopStart loopLength : Nat) :
    let l := normaliseLoop length loopStart loopLength
    l.1 ≤ length ∧ l.2 ≠ 2 ∧ l.2 ≤ loopLength := by
  unfold normaliseLoop
  dsimp only
  by_cases htwo : loopLength = 2
  · rw [if_pos htwo, if_neg (Nat.not_lt_zero length)]
    exact ⟨Nat.zero_le _, by decide, Nat.zero_le _⟩
  · rw [if_neg htwo]
    split
    · exact ⟨Nat.zero_le _, by decide, Nat.zero_le _⟩
    · next hstart => exact ⟨Nat.le_of_not_lt hstart, htwo, Nat.le_refl _⟩

theorem parseSample_ok (s : State) (base k : Nat) : (s.parseSample base k).Ok := by
  have heven := headerLength_even s k
  have hlength := headerLength_lt s k
  have hdoubled := (s.memRead2 (headerAddr k + 28)).isLt
  obtain ⟨hstart, hne, hle⟩ := normaliseLoop_range (s.headerLength k) (2 * (s.memRead2 (headerAddr k + 26)).toNat)
    (2 * (s.memRead2 (headerAddr k + 28)).toNat)
  change (s.headerLoop k).1 ≤ _ at hstart
  change (s.headerLoop k).2 ≠ 2 at hne
  change (s.headerLoop k).2 ≤ _ at hle
  constructor
  · rw [State.parseSample, BitVec.toNat_ofNat, BitVec.toNat_ofNat, Nat.mod_eq_of_lt hlength]
    exact (Nat.mod_le _ _).trans hstart
  · rw [State.parseSample, BitVec.toNat_ofNat, Nat.mod_eq_of_lt (by omega)]
    exact hne
  · rw [State.parseSample, BitVec.toNat_ofNat, Nat.mod_eq_of_lt hlength]
    exact heven

theorem cleared_sample_ok : Sample.cleared.Ok := ⟨Nat.le_refl _, by decide, rfl⟩

theorem clearedModule_samples_ok (s : State) (k : Fin 31) : s.clearedModule.smp[k].Ok := by
  have hk : s.clearedModule.smp[k] = Sample.cleared := by simp [State.clearedModule, Module.cleared]
  rw [hk]
  exact cleared_sample_ok

theorem parseModule_samples_ok (s : State) (nch : BitVec 5) (k : Fin 31) : (s.parseModule nch).smp[k].Ok := by
  rw [State.parseModule, vectorOf_getElem]
  exact parseSample_ok s _ k

/-- The running maximum is above its start and above every value it has met. -/
theorem le_foldl_max (f : Nat → Nat) (ks : List Nat) (start : Nat) :
    start ≤ ks.foldl (fun most i => max most (f i)) start ∧
      ∀ k ∈ ks, f k ≤ ks.foldl (fun most i => max most (f i)) start := by
  induction ks generalizing start with
  | nil => exact ⟨Nat.le_refl start, nofun⟩
  | cons j ks ih =>
    obtain ⟨hstart, hmem⟩ := ih (max start (f j))
    refine ⟨(Nat.le_max_left _ _).trans hstart, fun k hk => ?_⟩
    rcases List.mem_cons.mp hk with rfl | hk
    · exact (Nat.le_max_right _ _).trans hstart
    · exact hmem k hk

theorem foldl_max_le (f : Nat → Nat) (bound : Nat) (hf : ∀ i, f i ≤ bound) (ks : List Nat) (start : Nat)
    (hstart : start ≤ bound) : ks.foldl (fun most i => max most (f i)) start ≤ bound := by
  induction ks generalizing start with
  | nil => exact hstart
  | cons j ks ih => exact ih _ (Nat.max_le.mpr ⟨hstart, hf j⟩)

/-- Every entry of the parsed table is below the pattern count (20_memory.md R91). -/
theorem parseModule_patterns (s : State) (nch : BitVec 5) (i : Fin 128) :
    (s.parseModule nch).patternTable[i].toNat < (s.parseModule nch).patternCount.toNat := by
  have hentry := (le_foldl_max (fun j => (s.memRead1 (952 + j)).toNat) (List.range 128) 0).2 i
    (List.mem_range.mpr i.isLt)
  have hmost := foldl_max_le (fun j => (s.memRead1 (952 + j)).toNat) 255
    (fun j => Nat.le_of_lt_succ (s.memRead1 (952 + j)).isLt) (List.range 128) 0 (Nat.zero_le _)
  have hcount : (BitVec.ofNat 9 s.parsePatternCount).toNat = s.parsePatternCount := by
    rw [BitVec.toNat_ofNat, State.parsePatternCount]
    omega
  simp only [State.parseModule]
  rw [vectorOf_getElem, hcount, State.parsePatternCount]
  omega

theorem channelsOf_legal {signature : BitVec 32} {nch : BitVec 5} (h : channelsOf signature = some nch) :
    nchLegal nch := by
  unfold channelsOf at h
  unfold nchLegal
  repeat' split at h
  all_goals cases h
  all_goals decide

/-! ### The two parts of the invariant -/

/-- The ranges of the registers, the descriptors and the image, wherever a frame stands. -/
structure State.InRange (s : State) : Prop where
  player : s.p.Ok
  voices : ∀ c : Fin 28, s.ch[c].Ok
  samples : ∀ k : Fin 31, s.m.smp[k].Ok
  nch : nchLegal s.m.nch
  patterns : s.p.valid = true → ∀ i : Fin 128, s.m.patternTable[i].toNat < s.m.patternCount.toNat
  image_wf : s.image.wf = true
  image_below : memBelow s.image s.modsize.toNat

/-- The frame's own variables agree with where the frame stands (log 1). -/
structure State.FrameOk (s : State) : Prop where
  busy_gate : s.busy = true → s.p.gateOpen = true
  busy_chan : s.busy = true → s.chan.val < s.m.nch.toNat
  busy_och : s.busy = true → s.p.och = BitVec.ofNat 1 (s.chan.val / 2)
  idle_chan : s.busy = false → s.chan = 0
  idle_marks : s.busy = false → s.p.flags &&& 0x07 = 0 ∨ s.p.flags &&& 0x07 = 0x03

theorem inv_iff (s : State) : s.Inv ↔ s.InRange ∧ s.FrameOk :=
  ⟨fun h => ⟨⟨h.player, h.voices, h.samples, h.nch, h.patterns, h.image_wf, h.image_below⟩,
      ⟨h.busy_gate, h.busy_chan, h.busy_och, h.idle_chan, h.idle_marks⟩⟩,
    fun ⟨r, f⟩ => ⟨r.player, r.voices, r.samples, r.nch, r.patterns, r.image_wf, r.image_below,
      f.busy_gate, f.busy_chan, f.busy_och, f.idle_chan, f.idle_marks⟩⟩

/-- Between frames only the loop variable and the marks are bound. -/
theorem frameOk_idle {s : State} (hb : s.busy = false) (hchan : s.chan = 0)
    (hmarks : s.p.flags &&& 0x07 = 0 ∨ s.p.flags &&& 0x07 = 0x03) : s.FrameOk where
  busy_gate h := absurd (hb.symm.trans h) Bool.false_ne_true
  busy_chan h := absurd (hb.symm.trans h) Bool.false_ne_true
  busy_och h := absurd (hb.symm.trans h) Bool.false_ne_true
  idle_chan _ := hchan
  idle_marks _ := hmarks

/-- Inside a frame the gate is open, and the channel and the selector are the loop's. -/
theorem frameOk_busy {s : State} (hb : s.busy = true) (hgate : s.p.gateOpen = true) (hchan : s.chan.val < s.m.nch.toNat)
    (hoch : s.p.och = BitVec.ofNat 1 (s.chan.val / 2)) : s.FrameOk where
  busy_gate _ := hgate
  busy_chan _ := hchan
  busy_och _ := hoch
  idle_chan h := absurd (hb.symm.trans h) Bool.noConfusion
  idle_marks h := absurd (hb.symm.trans h) Bool.noConfusion

theorem inRange_setPlayer {s : State} (h : s.InRange) {p : Player} (hp : p.Ok) (hvalid : p.valid = s.p.valid) :
    (s.setPlayer p).InRange :=
  { h with player := hp, patterns := fun hv => h.patterns (hvalid.symm.trans hv) }

theorem inRange_setVoice {s : State} (h : s.InRange) {v : Voice} (hv : v.Ok) : (s.setVoice v).InRange :=
  { h with
    voices := fun c => by
      by_cases hc : c = s.chan
      · subst hc
        change (s.setVoice v).voice.Ok
        rw [setVoice_voice]
        exact hv
      · rw [setVoice_other s v c hc]
        exact h.voices c }

/-! ### Steps inside a frame -/

theorem frameEnd_keeps {s : State} (h : s.InRange) : (frameEnd s).InRange ∧ (frameEnd s).FrameOk :=
  ⟨{ inRange_setPlayer h h.player.endFrame rfl with },
    frameOk_idle rfl rfl (Or.inl (and_mask_eq_zero (by decide)))⟩

/-- The selector turns at every second channel, so that it follows the channel (44_mixer.md R271). -/
theorem nextOch_half (c : Fin 28) : nextOch (BitVec.ofNat 1 (c.val / 2)) c = BitVec.ofNat 1 ((c.val + 1) / 2) := by
  revert c
  decide

theorem nextChannel_keeps {s : State} (h : s.InRange) (hb : s.busy = true) (hgate : s.p.gateOpen = true)
    (hoch : s.p.och = BitVec.ofNat 1 ((s.chan.val + 1) / 2)) :
    (nextChannel s).InRange ∧ (nextChannel s).FrameOk := by
  rcases nextChannel_cases s with ⟨c, hc, hlt, hnext⟩ | hend
  · rw [hnext]
    exact ⟨{ h with }, frameOk_busy hb hgate hlt (by rw [hc]; exact hoch)⟩
  · rw [hend]
    exact frameEnd_keeps h

/-- The gate is a matter of `valid` and two of the settings. -/
theorem gateOpen_congr {p q : Player} (hvalid : p.valid = q.valid) (hsettings : p.settings = q.settings) :
    p.gateOpen = q.gateOpen := by
  simp only [Player.settings, Prod.mk.injEq] at hsettings
  obtain ⟨hplaying, hpaused, -⟩ := hsettings
  rw [Player.gateOpen, Player.gateOpen, hvalid, hplaying, hpaused]

theorem stepChannel_keeps {s t : State} (h : s.Inv) (hb : s.busy = true) (hstep : step s = .next t) :
    t.InRange ∧ t.FrameOk := by
  obtain ⟨hrange, hframe⟩ := (inv_iff s).mp h
  obtain ⟨u, hu, -, rfl⟩ := step_busy hb hstep
  obtain ⟨v, p, ht, hvoice, hplayer, hoch, hvalid, hsettings⟩ := channelStep_keeps (channelStep_eq hu)
  have hpitched : s.voice.Pitched :=
    ⟨(hrange.voices s.chan).note_le, (hrange.voices s.chan).period_pos, (hrange.voices s.chan).slideto_pos⟩
  have hdone : (channelTail u).InRange := by
    rw [ht]
    exact inRange_setPlayer (inRange_setVoice hrange (hvoice hpitched)) (hplayer hrange.player) hvalid
  refine nextChannel_keeps hdone ?_ ?_ ?_
  · rw [ht]
    exact hb
  · rw [ht]
    exact (gateOpen_congr hvalid hsettings).trans (hframe.busy_gate hb)
  · rw [ht]
    change p.och = _
    rw [hoch, hframe.busy_och hb, nextOch_half]
    rfl

/-! ### The start of a frame -/

theorem nchLegal_pos {nch : BitVec 5} (h : nchLegal nch) : 0 < nch.toNat := by
  rcases h with rfl | rfl | rfl | rfl <;> decide

/-- With a legal channel count the channel loop is entered. -/
theorem enterChannels_legal {s : State} (h : nchLegal s.m.nch) : enterChannels s = { s with busy := true, chan := 0 } := by
  unfold enterChannels
  rw [if_neg]
  intro h0
  have hpos := nchLegal_pos h
  rw [h0] at hpos
  contradiction

theorem sequence_keeps {s : State} (h : s.InRange) :
    (sequence s).InRange ∧ (sequence s).p.gateOpen = s.p.gateOpen ∧ (sequence s).p.och = s.p.och ∧
      (sequence s).m = s.m := by
  cases hend : s.p.endOfSong with
  | true =>
    rw [sequence_ended hend]
    exact ⟨h, rfl, rfl, rfl⟩
  | false =>
    rw [sequence_playing hend]
    have hwrites := advance_writes s.m.songLength s.p
    refine ⟨inRange_setPlayer h (advance_ok s.m.songLength h.player hend) ?_, ?_, ?_, rfl⟩
    · rw [hwrites]
      rfl
    · rw [onPlayer_p, hwrites]
      rfl
    · rw [onPlayer_p, hwrites]
      rfl

theorem frameStart_keeps {s : State} (h : s.InRange) (hb : s.busy = false) (hframe : s.FrameOk) :
    (frameStart s).InRange ∧ (frameStart s).FrameOk := by
  have hcleared : (s.onPlayer clearAccumulators).InRange := inRange_setPlayer h { h.player with } rfl
  rcases frameStart_cases s with hsilent | ⟨hgate, hopen⟩
  · rw [hsilent]
    exact ⟨{ hcleared with }, frameOk_idle hb (hframe.idle_chan hb) (hframe.idle_marks hb)⟩
  · obtain ⟨hrange, hgate', hoch, hm⟩ := sequence_keeps hcleared
    rw [hopen, enterChannels_legal hrange.nch]
    exact ⟨{ hrange with }, frameOk_busy rfl (hgate'.trans hgate) (nchLegal_pos hrange.nch)
      (hoch.trans (by decide : (0 : BitVec 1) = BitVec.ofNat 1 ((0 : Fin 28).val / 2)))⟩

/-! ### The other transactions -/

theorem voice_reset_ok : Voice.reset.Ok := ⟨rfl, by decide, by decide, by decide⟩

theorem initializePlayer_ok {p : Player} (h : p.Ok) : (initializePlayer p).Ok where
  speed_pos := by simp [initializePlayer, Player.reset]
  speed_le := by simp [initializePlayer, Player.reset]
  bpm_ge := by simp [initializePlayer, Player.reset]
  rate_pos := h.rate_pos
  row_lt := by simp [initializePlayer, Player.reset]
  tick_lt := by simp [initializePlayer, Player.reset]
  offset_le := Nat.zero_le _
  breakRow_le := Nat.zero_le _
  wait_le := Nat.le_refl _
  reserved_zero := (by decide : (0x03 : BitVec 8) &&& 0xA8 = 0)
  row_marks_tick _ := by
    rw [flag_newTickBit]
    exact (by decide : (0x03 : BitVec 8)[0] = true)
  err_le := h.err_le
  valid_no_err := h.valid_no_err
  position_le := Nat.zero_le _
  position_playing _ := Nat.zero_le _
  ended_no_marks := nofun

theorem initializeAll_inRange {s : State} (h : s.InRange) : (initializeAll s).InRange :=
  { inRange_setPlayer h (initializePlayer_ok h.player) rfl with
    voices := fun c => by
      have hc : (initializeAll s).ch[c] = Voice.reset := by simp [initializeAll]
      rw [hc]
      exact voice_reset_ok }

theorem loadImage_inRange {s : State} (h : s.InRange) {bytes : List Byte} (hlen : imageLengthOk bytes = true) :
    (loadImage bytes s).InRange := by
  have hlt : bytes.length < 2 ^ 32 := of_decide_eq_true hlen
  exact {
    player := { h.player with err_le := Nat.zero_le _, valid_no_err := nofun }
    voices := h.voices
    samples := h.samples
    nch := h.nch
    patterns := nofun
    image_wf := memOfBytes_wf bytes
    image_below := fun cell hcell => by
      have hcell' := memOfBytes_lt 0 bytes cell hcell
      change cell.1 < (BitVec.ofNat 32 bytes.length).toNat
      rw [BitVec.toNat_ofNat, Nat.mod_eq_of_lt hlt]
      omega }

theorem parse_inRange {s : State} (h : s.InRange) : (parse s).InRange := by
  unfold parse
  split
  · exact {
      player := { h.player with err_le := Nat.le_refl _, valid_no_err := nofun }
      voices := h.voices
      samples := clearedModule_samples_ok s
      nch := Or.inl rfl
      patterns := nofun
      image_wf := h.image_wf
      image_below := h.image_below }
  · next nch hnch =>
    exact {
      player := { h.player with err_le := Nat.zero_le _, valid_no_err := fun _ => rfl }
      voices := h.voices
      samples := parseModule_samples_ok s nch
      nch := channelsOf_legal hnch
      patterns := fun _ => parseModule_patterns s nch
      image_wf := h.image_wf
      image_below := h.image_below }

/-- PARSE leaves the frame's variables. -/
theorem parse_frame (s : State) :
    (parse s).busy = s.busy ∧ (parse s).chan = s.chan ∧ (parse s).p.flags = s.p.flags := by
  unfold parse
  split <;> exact ⟨rfl, rfl, rfl⟩

theorem setRate_ok {r : BitVec 32} {p : Player} (h : p.Ok) : (HostOp.applySetting (.setRate r) p).Ok := by
  refine { h with rate_pos := ?_ }
  simp only [HostOp.applySetting]
  split
  · next hr =>
    have hne : r ≠ 0 := by simpa [rateOk] using hr
    exact Nat.one_le_iff_ne_zero.mpr fun h0 => hne (BitVec.eq_of_toNat_eq h0)
  · exact h.rate_pos

/-- A transaction that writes player registers, `valid` and the marks apart, and is answered. -/
theorem onPlayer_answer_keeps {s : State} (h : s.InRange) (hb : s.busy = false) (hframe : s.FrameOk) (g : Player → Player)
    (hp : (g s.p).Ok) (hvalid : (g s.p).valid = s.p.valid) (hflags : (g s.p).flags = s.p.flags) (r : Reply) :
    ((s.onPlayer g).answer r).InRange ∧ ((s.onPlayer g).answer r).FrameOk :=
  ⟨{ inRange_setPlayer h hp hvalid with },
    frameOk_idle hb (hframe.idle_chan hb) (by rw [answer_p, onPlayer_p, hflags]; exact hframe.idle_marks hb)⟩

/-- A transaction taken between frames keeps both parts of the invariant. -/
theorem hostTurn_keeps {op : HostOp} {s t : State} (h : s.InRange) (hb : s.busy = false) (hframe : s.FrameOk)
    (hturn : hostTurn op s = .next t) : t.InRange ∧ t.FrameOk := by
  have hchan := hframe.idle_chan hb
  have hmarks := hframe.idle_marks hb
  cases op with
  | loadImage bytes =>
    obtain ⟨hlen, rfl⟩ := hostTurn_loadImage hturn
    exact ⟨{ loadImage_inRange h hlen with }, frameOk_idle hb hchan hmarks⟩
  | parse =>
    obtain rfl := Host.Outcome.next.inj hturn
    obtain ⟨hbusy', hchan', hflags'⟩ := parse_frame s
    exact ⟨{ parse_inRange h with },
      frameOk_idle (hbusy'.trans hb) (hchan'.trans hchan) (by rw [answer_p, hflags']; exact hmarks)⟩
  | init =>
    obtain rfl := Host.Outcome.next.inj hturn
    exact ⟨{ initializeAll_inRange h with },
      frameOk_idle hb hchan (Or.inr (by decide : (0x03 : BitVec 8) &&& 0x07 = 0x03))⟩
  | setRate r =>
    obtain ⟨hp, reply, ht⟩ := hostTurn_setRate hturn
    rw [ht, hp]
    exact onPlayer_answer_keeps h hb hframe (HostOp.applySetting (.setRate r)) (setRate_ok h.player) rfl rfl reply
  | setPlaying b =>
    obtain rfl := Host.Outcome.next.inj hturn
    exact onPlayer_answer_keeps h hb hframe _ { h.player with } rfl rfl .done
  | setPaused b =>
    obtain rfl := Host.Outcome.next.inj hturn
    exact onPlayer_answer_keeps h hb hframe _ { h.player with } rfl rfl .done
  | setRepeat b =>
    obtain rfl := Host.Outcome.next.inj hturn
    exact onPlayer_answer_keeps h hb hframe _ { h.player with } rfl rfl .done
  | frame =>
    obtain rfl := Host.Outcome.next.inj hturn
    exact frameStart_keeps h hb hframe
  | fill n =>
    cases n with
    | zero =>
      obtain rfl := Host.Outcome.next.inj hturn
      exact ⟨h, hframe⟩
    | succ n =>
      obtain rfl := Host.Outcome.next.inj hturn
      exact frameStart_keeps (s := { s with host := refill n s.host }) { h with } hb { hframe with }
  | readState r =>
    obtain rfl := Host.Outcome.next.inj hturn
    exact onPlayer_answer_keeps h hb hframe id h.player rfl rfl _
  | clearVu =>
    obtain rfl := Host.Outcome.next.inj hturn
    exact onPlayer_answer_keeps h hb hframe _ { h.player with } rfl rfl .done

/-- Settles O15: a step inside a frame is a channel step and the loop's move, a step between frames a transaction or
nothing, and each keeps both parts of the invariant. -/
theorem stepKeepsTheInvariant : Obligations.StepKeepsTheInvariant := by
  intro s t h hstep
  cases hb : s.busy with
  | true => exact (inv_iff t).mpr (stepChannel_keeps h hb hstep)
  | false =>
    rcases step_idle hb hstep with rfl | ⟨op, rest, -, hturn⟩
    · exact h
    · obtain ⟨hrange, hframe⟩ := (inv_iff s).mp h
      exact (inv_iff t).mpr (hostTurn_keeps (s := { s with host := rest }) { hrange with } hb { hframe with } hturn)

end Sys2Proof.Machine
end

section
/-! PROOFS. The order of the bytes of a memory read (20_memory.md R83). -/

namespace Sys2Proof.Machine

/-- The value of an append: its low part counts as it is, its high part above it. -/
theorem toNat_append_eq_add {n m : Nat} (x : BitVec n) (y : BitVec m) : (x ++ y).toNat = x.toNat * 2 ^ m + y.toNat := by
  rw [BitVec.toNat_append, ← Nat.shiftLeft_add_eq_or_of_lt y.isLt, Nat.shiftLeft_eq]

theorem memRead2_toNat (s : State) (a : Nat) :
    (s.memRead2 a).toNat = (s.memRead1 a).toNat * 256 + (s.memRead1 (a + 1)).toNat :=
  toNat_append_eq_add _ _

theorem memRead4_toNat (s : State) (a : Nat) :
    (s.memRead4 a).toNat =
      (s.memRead1 a).toNat * 2 ^ 24 + (s.memRead1 (a + 1)).toNat * 2 ^ 16 + (s.memRead1 (a + 2)).toNat * 2 ^ 8
        + (s.memRead1 (a + 3)).toNat := by
  rw [State.memRead4, toNat_append_eq_add, toNat_append_eq_add, toNat_append_eq_add]
  omega

/-- Settles O57: the bound of the memory, and the value of the two appends. -/
theorem memoryReadsAreBigEndian : Obligations.MemoryReadsAreBigEndian :=
  fun s a => ⟨memRead1_beyond s, memRead2_toNat s a, memRead4_toNat s a⟩

end Sys2Proof.Machine
end

section
/-! PROOFS. What PARSE does (20_memory.md R87 to R97): its two outcomes, and then field by field what a successful one
leaves in the descriptors. -/

namespace Sys2Proof.Machine

/-! ### The two outcomes (20_memory.md R92, R97; 60_exceptions.md R321) -/

/-- The channel count that a signature, read as a number, stands for; 0 for none. -/
def signatureCount (w : Nat) : Nat :=
  if w = 0x4D2E4B2E ∨ w = 0x4D214B21 ∨ w = 0x3443484E ∨ w = 0x464C5434 then 4
  else if w = 0x3643484E then 6
  else if w = 0x3843484E ∨ w = 0x464C5438 then 8
  else if w = 0x32384348 then 28
  else 0

/-- The model's chain over the eight signatures gives that count. -/
theorem signatureCount_toNat (w : BitVec 32) : signatureCount w.toNat = ((channelsOf w).map BitVec.toNat).getD 0 := by
  simp only [signatureCount, channelsOf, ite_or, ← BitVec.toNat_inj, BitVec.reduceToNat,
    apply_ite (Option.map BitVec.toNat), apply_ite (Option.getD · 0), Option.map_some, Option.map_none,
    Option.getD_some, Option.getD_none]

theorem parse_of_none {s : State} (h : channelsOf s.signatureWord = none) :
    parse s = { s with m := s.clearedModule, p := { s.p with valid := false, err := 1 } } := by
  rw [parse, h]
  rfl

theorem parse_of_some {s : State} {nch : BitVec 5} (h : channelsOf s.signatureWord = some nch) :
    parse s = { s with
      m := s.parseModule nch
      p := { s.p with
        filter := s.parseFilter nch
        vu := Vector.replicate 28 0
        valid := true
        err := 0 } } := by
  rw [parse, h]
  rfl

/-- Settles O53: a signature with a channel count, or without. -/
theorem parseAcceptsExactlyTheEightSignatures : Obligations.ParseAcceptsExactlyTheEightSignatures := by
  intro s
  change (signatureCount s.signatureWord.toNat ≠ 0 → _) ∧ (signatureCount s.signatureWord.toNat = 0 → _)
  have hcount := signatureCount_toNat s.signatureWord
  cases hsig : channelsOf s.signatureWord with
  | none =>
    rw [hsig] at hcount
    exact ⟨fun hne => absurd hcount hne, fun _ => parse_of_none hsig⟩
  | some nch =>
    rw [hsig] at hcount
    have hpos := nchLegal_pos (channelsOf_legal hsig)
    refine ⟨fun _ => ?_, fun hzero => absurd (hcount.symm.trans hzero) (Nat.ne_of_gt hpos)⟩
    rw [parse_of_some hsig]
    exact ⟨hcount.symm, rfl, rfl, vectorOf_getElem _, rfl⟩

/-- Where PARSE leaves `valid` 1 it has found a signature and decoded the descriptors for its channel count. -/
theorem parse_valid {s : State} (h : (parse s).p.valid = true) :
    ∃ nch, (parse s).m = s.parseModule nch ∧ (parse s).p.filter = s.parseFilter nch ∧ nchLegal nch := by
  cases hsig : channelsOf s.signatureWord with
  | none =>
    rw [parse_of_none hsig] at h
    contradiction
  | some nch =>
    rw [parse_of_some hsig]
    exact ⟨nch, rfl, rfl, channelsOf_legal hsig⟩

/-! ### The sample headers (20_memory.md R88, R89, R94) -/

/-- A loop 2 long, or with its start past the sample, is dropped. -/
theorem normaliseLoop_dropped {length loopStart loopLength : Nat} (h : loopLength = 2 ∨ length < loopStart) :
    normaliseLoop length loopStart loopLength = (0, 0) := by
  unfold normaliseLoop
  dsimp only
  by_cases htwo : loopLength = 2
  · rw [if_pos htwo, if_neg (Nat.not_lt_zero length)]
  · rw [if_neg htwo, if_pos (h.resolve_left htwo)]

/-- Any other loop is kept. -/
theorem normaliseLoop_kept {length loopStart loopLength : Nat} (htwo : loopLength ≠ 2) (hstart : loopStart ≤ length) :
    normaliseLoop length loopStart loopLength = (loopStart, loopLength) := by
  unfold normaliseLoop
  dsimp only
  rw [if_neg htwo, if_neg (Nat.not_lt.mpr hstart)]

theorem dataY_toNat (d : BitVec 8) : (dataY d).toNat = d.toNat % 16 := by
  rw [dataY, BitVec.extractLsb'_toNat, Nat.shiftRight_zero]

/-- The low nibble of a byte as a signed number (20_memory.md R88). -/
theorem dataY_toInt (d : BitVec 8) :
    (dataY d).toInt = if d.toNat % 16 ≤ 7 then (d.toNat % 16 : Int) else d.toNat % 16 - 16 := by
  rw [BitVec.toInt_eq_toNat_cond, dataY_toNat]
  split_ifs <;> omega

theorem parseSample_length (s : State) (base k : Nat) : (s.parseSample base k).length.toNat = s.headerLength k :=
  Nat.mod_eq_of_lt (headerLength_lt s k)

/-- A doubled 16-bit value fits a 17-bit register. -/
theorem doubled_ofNat_toNat (w : BitVec 16) : (BitVec.ofNat 17 (2 * w.toNat)).toNat = 2 * w.toNat := by
  have hw := w.isLt
  rw [BitVec.toNat_ofNat]
  omega

section Loop

variable (s : State) (base k : Nat)

theorem parseSample_loop_dropped
    (h : 2 * (s.memRead2 (headerAddr k + 28)).toNat = 2 ∨
      s.headerLength k < 2 * (s.memRead2 (headerAddr k + 26)).toNat) :
    (s.parseSample base k).loopStart = 0 ∧ (s.parseSample base k).loopLength = 0 := by
  simp [State.parseSample, State.headerLoop, normaliseLoop_dropped h]

theorem parseSample_loop_kept (htwo : 2 * (s.memRead2 (headerAddr k + 28)).toNat ≠ 2)
    (hstart : 2 * (s.memRead2 (headerAddr k + 26)).toNat ≤ s.headerLength k) :
    (s.parseSample base k).loopStart.toNat = 2 * (s.memRead2 (headerAddr k + 26)).toNat ∧
      (s.parseSample base k).loopLength.toNat = 2 * (s.memRead2 (headerAddr k + 28)).toNat := by
  simp only [State.parseSample, State.headerLoop, normaliseLoop_kept htwo hstart]
  exact ⟨doubled_ofNat_toNat _, doubled_ofNat_toNat _⟩

end Loop

/-- The bases grow by less than 2^17 per sample. -/
theorem pcmBaseFrom_le (s : State) (base k : Nat) : s.pcmBaseFrom base k ≤ base + k * 2 ^ 17 := by
  induction k with
  | zero => exact Nat.le_add_right base _
  | succ k ih =>
    have hlength := headerLength_lt s k
    rw [State.pcmBaseFrom]
    omega

/-- The base of the first sample: the end of the patterns (20_memory.md R94). -/
def State.pcmStart (s : State) (nch : BitVec 5) : Nat := 1084 + 256 * nch.toNat * s.parsePatternCount

theorem parsePatternCount_le (s : State) : s.parsePatternCount ≤ 256 := by
  have hmost := foldl_max_le (fun j => (s.memRead1 (952 + j)).toNat) 255
    (fun j => Nat.le_of_lt_succ (s.memRead1 (952 + j)).isLt) (List.range 128) 0 (Nat.zero_le _)
  rw [State.parsePatternCount]
  omega

theorem parseModule_patternCount (s : State) (nch : BitVec 5) :
    (s.parseModule nch).patternCount.toNat = s.parsePatternCount :=
  Nat.mod_eq_of_lt (Nat.lt_of_le_of_lt (parsePatternCount_le s) (by decide))

theorem parseModule_smp (s : State) (nch : BitVec 5) (k : Fin 31) :
    (s.parseModule nch).smp[k] = s.parseSample (s.pcmStart nch) k :=
  vectorOf_getElem _ k

/-- No PCM base overflows its register: the patterns end before 2^21 + 1084, and 31 samples are shorter than 2^22. -/
theorem parseSample_pcmBase (s : State) (nch : BitVec 5) (k : Fin 31) :
    (s.parseSample (s.pcmStart nch) k).pcmBase.toNat = s.pcmBaseFrom (s.pcmStart nch) k := by
  have hstart : s.pcmStart nch ≤ 1084 + 256 * 32 * 256 :=
    Nat.add_le_add_left (Nat.mul_le_mul (Nat.mul_le_mul_left 256 nch.isLt.le) (parsePatternCount_le s)) 1084
  have hbase := pcmBaseFrom_le s (s.pcmStart nch) k
  have hk := k.isLt
  refine Nat.mod_eq_of_lt ?_
  omega

/-- Settles O54: each header by its descriptor's fields, the bases by their recursion. -/
theorem parseDecodesSampleHeaders : Obligations.ParseDecodesSampleHeaders := by
  intro s h
  obtain ⟨nch, hm, -, -⟩ := parse_valid h
  rw [hm]
  refine ⟨fun k => ?_, ?_, fun k l hl => ?_⟩
  · have hlength : s.headerLength k = 2 * ((s.memRead1 (20 + k.val * 30 + 22)).toNat * 256 +
        (s.memRead1 (20 + k.val * 30 + 23)).toNat) := congrArg (2 * ·) (memRead2_toNat s _)
    have hloopStart := memRead2_toNat s (headerAddr k + 26)
    have hloopLength := memRead2_toNat s (headerAddr k + 28)
    have hdropped := parseSample_loop_dropped s (s.pcmStart nch) k
    have hkept := parseSample_loop_kept s (s.pcmStart nch) k
    rw [hlength, hloopStart, hloopLength] at hdropped hkept
    rw [parseModule_smp]
    exact ⟨vectorOf_getElem _, (parseSample_length s _ k).trans hlength, dataY_toInt _, rfl, hdropped, hkept⟩
  · change (s.parseModule nch).smp[(0 : Fin 31)].pcmBase.toNat = _
    rw [parseModule_smp, parseSample_pcmBase, parseModule_patternCount]
    rfl
  · rw [parseModule_smp, parseModule_smp, parseSample_pcmBase, parseSample_pcmBase, parseSample_length, hl]
    rfl

/-! ### The title (20_memory.md R87) -/

theorem titleLength_eq (byteAt : Nat → Byte) :
    titleLength byteAt = (List.range 20).findIdx fun i => byteAt i == 0 := by
  rw [titleLength, List.takeWhile_eq_take_findIdx_not, List.length_take_of_le List.findIdx_le_length]
  simp [bne]

theorem titleLength_le (byteAt : Nat → Byte) : titleLength byteAt ≤ 20 := by
  rw [titleLength_eq]
  exact List.findIdx_le_length.trans_eq List.length_range

/-- Every byte of the title differs from 0. -/
theorem ne_zero_of_lt_titleLength {byteAt : Nat → Byte} {i : Nat} (h : i < titleLength byteAt) : byteAt i ≠ 0 := by
  rw [titleLength_eq] at h
  simpa using List.not_of_lt_findIdx h

/-- A title shorter than its 20 places ends at a 0. -/
theorem eq_zero_at_titleLength {byteAt : Nat → Byte} (h : titleLength byteAt < 20) : byteAt (titleLength byteAt) = 0 := by
  rw [titleLength_eq] at h ⊢
  simpa using List.findIdx_getElem (w := h.trans_eq List.length_range.symm)

theorem parseModule_titleLen (s : State) (nch : BitVec 5) :
    (s.parseModule nch).titleLen.toNat = titleLength s.memRead1 :=
  Nat.mod_eq_of_lt (Nat.lt_of_le_of_lt (titleLength_le _) (by decide))

theorem parseModule_title (s : State) (nch : BitVec 5) {i : Fin 20} (h : i.val < titleLength s.memRead1) :
    (s.parseModule nch).title[i] = s.memRead1 i :=
  (vectorOf_getElem _ i).trans (if_pos h)

/-! ### The pattern table (20_memory.md R91) -/

theorem parseModule_patternTable (s : State) (nch : BitVec 5) (i : Fin 128) :
    (s.parseModule nch).patternTable[i] = s.memRead1 (952 + i) :=
  vectorOf_getElem _ i

/-- A running maximum is its start or one of the values it has met. -/
theorem foldl_max_mem (f : Nat → Nat) (ks : List Nat) (start : Nat) :
    ks.foldl (fun most i => max most (f i)) start = start ∨
      ∃ k ∈ ks, ks.foldl (fun most i => max most (f i)) start = f k := by
  induction ks generalizing start with
  | nil => exact Or.inl rfl
  | cons j ks ih =>
    rcases ih (max start (f j)) with hstart | ⟨k, hk, hvalue⟩
    · rcases max_choice start (f j) with hmax | hmax
      · exact Or.inl (hstart.trans hmax)
      · exact Or.inr ⟨j, List.mem_cons_self, hstart.trans hmax⟩
    · exact Or.inr ⟨k, List.mem_cons_of_mem j hk, hvalue⟩

/-- From 0, the maximum over a list that is not empty is one of its values. -/
theorem foldl_max_attained (f : Nat → Nat) {ks : List Nat} (hks : ks ≠ []) :
    ∃ k ∈ ks, ks.foldl (fun most i => max most (f i)) 0 = f k := by
  rcases foldl_max_mem f ks 0 with hzero | hmem
  · obtain ⟨j, hj⟩ := List.exists_mem_of_ne_nil ks hks
    have hle := (le_foldl_max f ks 0).2 j hj
    exact ⟨j, hj, by omega⟩
  · exact hmem

/-- The pattern count is reached by a table entry. -/
theorem parseModule_patternCount_attained (s : State) (nch : BitVec 5) :
    ∃ i : Fin 128, (s.parseModule nch).patternTable[i].toNat + 1 = (s.parseModule nch).patternCount.toNat := by
  obtain ⟨k, hk, hvalue⟩ := foldl_max_attained (fun j => (s.memRead1 (952 + j)).toNat) (ks := List.range 128) (by decide)
  refine ⟨⟨k, List.mem_range.mp hk⟩, ?_⟩
  rw [parseModule_patternTable, parseModule_patternCount, State.parsePatternCount, hvalue, Nat.add_comm]

/-! ### The filter's look-ahead (20_memory.md R96) -/

/-- A fold that takes a value at each number with a property, where no number has it. -/
theorem foldl_last_none {β : Type} (P : Nat → Prop) [DecidablePred P] (value : Nat → β) (n : Nat) (start : β)
    (h : ∀ c < n, ¬ P c) : (List.range n).foldl (fun b c => if P c then value c else b) start = start := by
  induction n with
  | zero => rfl
  | succ n ih =>
    rw [List.range_succ, List.foldl_append, List.foldl_cons, List.foldl_nil, if_neg (h n n.lt_succ_self)]
    exact ih fun c hc => h c (Nat.lt_succ_of_lt hc)

/-- Where numbers have the property, the last one's value wins. -/
theorem foldl_last_some {β : Type} (P : Nat → Prop) [DecidablePred P] (value : Nat → β) (n : Nat) (start : β) {c : Nat}
    (hc : c < n) (hP : P c) (hlast : ∀ d < n, c < d → ¬ P d) :
    (List.range n).foldl (fun b c => if P c then value c else b) start = value c := by
  induction n with
  | zero => exact absurd hc (Nat.not_lt_zero c)
  | succ n ih =>
    rw [List.range_succ, List.foldl_append, List.foldl_cons, List.foldl_nil]
    rcases Nat.lt_succ_iff_lt_or_eq.mp hc with hlt | rfl
    · rw [if_neg (hlast n n.lt_succ_self hlt)]
      exact ih hlt fun d hd => hlast d (Nat.lt_succ_of_lt hd)
    · rw [if_pos hP]

/-- Command E with high nibble 0, as a number. -/
theorem isFilterCell_iff (w : CellWord) : cellCmd w = 0xE ∧ dataX (cellData w) = 0 ↔ w.toNat / 16 % 256 = 0xE0 := by
  rw [← BitVec.toNat_inj, ← BitVec.toNat_inj]
  simp only [cellCmd, cellData, dataX, BitVec.extractLsb'_toNat, Nat.shiftRight_eq_div_pow, BitVec.reduceToNat]
  omega

/-- The flag is on with an even operand. -/
theorem not_bit0_eq (w : CellWord) : (!w.getLsbD 0) = decide (w.toNat % 2 = 0) := by
  rw [BitVec.getLsbD, Nat.testBit_zero]
  rcases Nat.mod_two_eq_zero_or_one w.toNat with h | h <;> simp [h]

/-- The cell of channel `c` in row 0 of the first pattern. -/
def State.firstCell (s : State) (nch : BitVec 5) (c : Nat) : CellWord :=
  s.memRead4 (1084 + (s.memRead1 952).toNat * (256 * nch.toNat) + c * 4)

theorem parseFilter_other (s : State) {nch : BitVec 5} (h : nch ≠ 4) : s.parseFilter nch = false := if_neg h

/-- With 4 channels the flag is the fold over the four cells, in the terms of their numbers. -/
theorem parseFilter_four (s : State) :
    s.parseFilter 4 = (List.range 4).foldl
      (fun f c => if (s.firstCell 4 c).toNat / 16 % 256 = 0xE0 then decide ((s.firstCell 4 c).toNat % 2 = 0) else f)
      false := by
  have hcell : ∀ c, s.memRead4 (cellAddr (4 : BitVec 5).toNat (s.memRead1 952).toNat 0 c) = s.firstCell 4 c := by
    intro c
    rw [cellAddr, Nat.zero_mul, Nat.add_zero, State.firstCell]
  simp only [State.parseFilter, hcell, isFilterCell_iff, not_bit0_eq, if_true]
  rfl

/-- Settles O55, field by field. -/
theorem parseDecodesSongHeaderAndFilter : Obligations.ParseDecodesSongHeaderAndFilter := by
  intro s h
  obtain ⟨nch, hm, hfilter, -⟩ := parse_valid h
  rw [hm, hfilter]
  dsimp only
  rw [parseModule_titleLen]
  refine ⟨titleLength_le _, fun i hi => ⟨ne_zero_of_lt_titleLength hi, parseModule_title s nch hi⟩,
    eq_zero_at_titleLength, rfl, rfl, parseModule_patternTable s nch, parseModule_patterns s nch,
    parseModule_patternCount_attained s nch, parseFilter_other s, ?_, ?_⟩
  · rintro rfl hnone
    rw [parseFilter_four]
    exact foldl_last_none _ _ 4 false hnone
  · rintro rfl c hc hcell hlast
    rw [parseFilter_four]
    exact foldl_last_some _ (fun c => decide ((s.firstCell 4 c).toNat % 2 = 0)) 4 false hc hcell hlast

end Sys2Proof.Machine
end

section
/-! PROOFS. The decoder and the encoder undo each other (30_encoding.md R120 to R127), the rows of the opcode map are
disjoint and each is its instruction's (R133), and the operands in integers (R122). -/

namespace Sys2Proof

open Laws Machine

/-! ### A cell and its four bytes -/

/-- A word is its four bytes, the first the highest (00_scope.md R9). -/
theorem bytes_append (w : CellWord) :
    w.extractLsb' 24 8 ++ w.extractLsb' 16 8 ++ w.extractLsb' 8 8 ++ w.extractLsb' 0 8 = w := by
  have hw := w.isLt
  apply BitVec.eq_of_toNat_eq
  simp only [toNat_append_eq_add, BitVec.extractLsb'_toNat, Nat.shiftRight_eq_div_pow]
  omega

/-- The decoder reads the cell out of an instruction's four bytes and leaves the rest. -/
theorem decode_encodeBytes (i : Instr) (rest : List Byte) :
    decode (encodeBytes i ++ rest) = .ok (decodeCell (encode i), rest) := by
  simp only [encodeBytes, List.cons_append, List.nil_append, decode, bytes_append]

/-- An instruction whose cell is four bytes in a row has these as its bytes. -/
theorem encodeBytes_of_encode {i : Instr} {b0 b1 b2 b3 : Byte} (h : encode i = b0 ++ b1 ++ b2 ++ b3) :
    encodeBytes i = [b0, b1, b2, b3] := by
  have e0 : (b0 ++ b1 ++ b2 ++ b3).extractLsb' 24 8 = b0 :=
    (extract_high (b0 ++ b1 ++ b2) b3 16 8).trans
      ((extract_high (b0 ++ b1) b2 8 8).trans ((extract_high b0 b1 0 8).trans (extract_whole b0)))
  have e1 : (b0 ++ b1 ++ b2 ++ b3).extractLsb' 16 8 = b1 :=
    (extract_high (b0 ++ b1 ++ b2) b3 8 8).trans
      ((extract_high (b0 ++ b1) b2 0 8).trans ((extract_low b0 b1 0 8 (by decide)).trans (extract_whole b1)))
  have e2 : (b0 ++ b1 ++ b2 ++ b3).extractLsb' 8 8 = b2 :=
    (extract_high (b0 ++ b1 ++ b2) b3 0 8).trans ((extract_low (b0 ++ b1) b2 0 8 (by decide)).trans (extract_whole b2))
  have e3 : (b0 ++ b1 ++ b2 ++ b3).extractLsb' 0 8 = b3 :=
    (extract_low (b0 ++ b1 ++ b2) b3 0 8 (by decide)).trans (extract_whole b3)
  simp only [encodeBytes, h, e0, e1, e2, e3]

/-! ### The two maps and the encoder -/

section Fields

variable (smp : BitVec 8) (p : BitVec 12)

/-- A packed cell decodes by its fields. -/
@[simp] theorem decodeCell_packCell (c : BitVec 4) (d : BitVec 8) :
    decodeCell (packCell smp p c d) = decodeFields smp p c d := by
  simp only [decodeCell, cellSmp_packCell, cellPeriod_packCell, cellCmd_packCell, cellData_packCell]

/-- The extended map is undone by the encoder: command E, the sub-command and the operand. -/
theorem encode_decodeExtended (x y : BitVec 4) : encode (decodeExtended smp p x y) = packCell smp p 0xE (x ++ y) := by
  obtain ⟨⟨n, hn⟩⟩ := x
  interval_cases n <;> rfl

/-- The primary map is undone by the encoder; command E is the extended map. -/
theorem encode_decodeFields (c : BitVec 4) (d : BitVec 8) : encode (decodeFields smp p c d) = packCell smp p c d := by
  rcases eq_or_ne c 0xE with rfl | primary
  · rw [← dataX_append_dataY d, ← encode_decodeExtended, dataX_append_dataY]
    rfl
  · obtain ⟨⟨n, hn⟩⟩ := c
    interval_cases n <;> simp [decodeFields, encode] at primary ⊢

end Fields

/-- Encoding after decoding. -/
@[simp] theorem encode_decodeCell (w : CellWord) : encode (decodeCell w) = w := by
  rw [decodeCell, encode_decodeFields, packCell_fields]

/-- Decoding after encoding: the cell's command, and under command E the nibble `x`, lead back to the constructor. -/
@[simp] theorem decodeCell_encode (i : Instr) : decodeCell (encode i) = i := by
  cases i <;> simp [encode, decodeFields, decodeExtended]

/-- Settles O1. -/
theorem encodedCellDecodesToItsInstruction : Obligations.EncodedCellDecodesToItsInstruction := by
  intro i rest _
  rw [decode_encodeBytes, decodeCell_encode]

/-- Settles O2. -/
theorem decodedBytesEncodeBack : Obligations.DecodedBytesEncodeBack := fun b0 b1 b2 b3 _ =>
  ⟨decodeCell (b0 ++ b1 ++ b2 ++ b3), rfl, encodeBytes_of_encode (encode_decodeCell _)⟩

/-! ### The opcode map -/

/-- Rows of the map that agree where both masks look are one row. -/
theorem opcodeRows_disjoint :
    ∀ r ∈ opcodeRows, ∀ r' ∈ opcodeRows, r.pattern &&& r'.mask = r'.pattern &&& r.mask → r = r' := by
  decide

/-- Two rows that select one cell are one row. -/
theorem row_unique {w : CellWord} {r r' : OpcodeRow} (hr : r ∈ opcodeRows) (hr' : r' ∈ opcodeRows)
    (h : w &&& r.mask = r.pattern) (h' : w &&& r'.mask = r'.pattern) : r = r' := by
  apply opcodeRows_disjoint r hr r' hr'
  rw [← h, ← h', BitVec.and_assoc, BitVec.and_assoc, BitVec.and_comm r.mask]

theorem opcodeRows_nodup : opcodeRows.Nodup := by decide

/-- Every instruction's cell is selected by a row of its opcode. -/
theorem encode_selects_row (i : Instr) : EncodesItsRow.Statement i := by
  cases i with
  | arp => exact EncodesItsRow.arp ..
  | portup => exact EncodesItsRow.portup ..
  | portdn => exact EncodesItsRow.portdn ..
  | toneporta => exact EncodesItsRow.toneporta ..
  | vibrato => exact EncodesItsRow.vibrato ..
  | tonevol => exact EncodesItsRow.tonevol ..
  | vibvol => exact EncodesItsRow.vibvol ..
  | nop7 => exact EncodesItsRow.nop7 ..
  | nop8 => exact EncodesItsRow.nop8 ..
  | offset => exact EncodesItsRow.offset ..
  | volslide => exact EncodesItsRow.volslide ..
  | jump => exact EncodesItsRow.jump ..
  | setvol => exact EncodesItsRow.setvol ..
  | brk => exact EncodesItsRow.brk ..
  | speed => exact EncodesItsRow.speed ..
  | filter => exact EncodesItsRow.filter ..
  | fineup => exact EncodesItsRow.fineup ..
  | finedn => exact EncodesItsRow.finedn ..
  | nope3 => exact EncodesItsRow.nope3 ..
  | vibwave => exact EncodesItsRow.vibwave ..
  | nope5 => exact EncodesItsRow.nope5 ..
  | loop => exact EncodesItsRow.loop ..
  | nope7 => exact EncodesItsRow.nope7 ..
  | nope8 => exact EncodesItsRow.nope8 ..
  | retrig => exact EncodesItsRow.retrig ..
  | finevolup => exact EncodesItsRow.finevolup ..
  | finevoldn => exact EncodesItsRow.finevoldn ..
  | cut => exact EncodesItsRow.cut ..
  | delaynote => exact EncodesItsRow.delaynote ..
  | delaypat => exact EncodesItsRow.delaypat ..
  | nopef => exact EncodesItsRow.nopef ..

/-- A cell selected by a row selects it alone. -/
theorem selectedRows_eq_singleton {w : CellWord} {r : OpcodeRow} (hr : r ∈ opcodeRows)
    (h : w &&& r.mask = r.pattern) : selectedRows w = [r] := by
  have hself : ∀ r' ∈ opcodeRows, (w &&& r'.mask == r'.pattern) = (r' == r) := by
    intro r' hr'
    rw [Bool.eq_iff_iff, beq_iff_eq, beq_iff_eq]
    exact ⟨fun h' => row_unique hr' hr h' h, fun e => e ▸ h⟩
  rw [selectedRows, List.filter_congr hself, List.filter_beq, List.count_eq_one_of_mem opcodeRows_nodup hr,
    List.replicate_one]

/-- Settles O3: the row is the one that selects the encoding of the decoded instruction, which is the cell. -/
theorem everyCellSelectsItsOwnRowAlone : Obligations.EveryCellSelectsItsOwnRowAlone := by
  refine ⟨rfl, fun w => ?_⟩
  obtain ⟨r, hr, hopcode, hselects⟩ := encode_selects_row (decodeCell w)
  rw [encode_decodeCell] at hselects
  exact ⟨r, selectedRows_eq_singleton hr hselects, hopcode⟩

/-! ### The operands in integers -/

theorem cellPeriod_toNat (w : CellWord) : (cellPeriod w).toNat = w.toNat / 2 ^ 16 % 2 ^ 12 := by
  rw [cellPeriod, BitVec.extractLsb'_toNat, Nat.shiftRight_eq_div_pow]

theorem cellSmp_toNat (w : CellWord) : (cellSmp w).toNat = w.toNat / 2 ^ 28 * 16 + w.toNat / 2 ^ 12 % 16 := by
  have hw := w.isLt
  rw [cellSmp, toNat_append_eq_add, BitVec.extractLsb'_toNat, BitVec.extractLsb'_toNat,
    Nat.shiftRight_eq_div_pow, Nat.shiftRight_eq_div_pow]
  omega

theorem cellCmd_toNat (w : CellWord) : (cellCmd w).toNat = w.toNat / 2 ^ 8 % 16 := by
  rw [cellCmd, BitVec.extractLsb'_toNat, Nat.shiftRight_eq_div_pow]

theorem cellData_toNat (w : CellWord) : (cellData w).toNat = w.toNat % 256 := by
  rw [cellData, BitVec.extractLsb'_toNat, Nat.shiftRight_zero]

theorem dataX_toNat (d : BitVec 8) : (dataX d).toNat = d.toNat / 16 := by
  have hd := d.isLt
  rw [dataX, BitVec.extractLsb'_toNat, Nat.shiftRight_eq_div_pow]
  omega

theorem dataY_toNat (d : BitVec 8) : (dataY d).toNat = d.toNat % 16 := by
  rw [dataY, BitVec.extractLsb'_toNat, Nat.shiftRight_zero]

/-- Two decimal digits of at most 15 stay below 256. -/
theorem decimalRow_toNat (x y : BitVec 4) : (decimalRow x y).toNat = x.toNat * 10 + y.toNat := by
  have hx := x.isLt
  have hy := y.isLt
  rw [decimalRow, BitVec.toNat_ofNat]
  omega

/-- The offset is an integer below 2^16, which binary64 holds exactly. -/
theorem sampleOffset_units (d : BitVec 8) : fUnits (sampleOffset d) = (d.toNat * 256 : Nat) * 2 ^ 1074 := by
  have hd := d.isLt
  exact (fUnits_fOfNat _ (by omega)).1

/-- The cell of an instruction holds its sample number. -/
@[simp] theorem cellSmp_encode (i : Instr) : cellSmp (encode i) = i.smp := by
  cases i <;> exact cellSmp_packCell ..

/-- The cell of an instruction holds its period. -/
@[simp] theorem cellPeriod_encode (i : Instr) : cellPeriod (encode i) = i.period := by
  cases i <;> exact cellPeriod_packCell ..

@[simp] theorem decodeCell_smp (w : CellWord) : (decodeCell w).smp = cellSmp w := by
  rw [← cellSmp_encode, encode_decodeCell]

@[simp] theorem decodeCell_period (w : CellWord) : (decodeCell w).period = cellPeriod w := by
  rw [← cellPeriod_encode, encode_decodeCell]

/-- Settles O4. -/
theorem operandsAreTheBitFieldsOfTheCell : Obligations.OperandsAreTheBitFieldsOfTheCell := by
  refine ⟨fun w => ?_, fun d => ⟨dataX_toNat d, dataY_toNat d⟩, decimalRow_toNat, sampleOffset_units⟩
  rw [decodeCell_smp, decodeCell_period]
  exact ⟨cellPeriod_toNat w, cellSmp_toNat w, cellCmd w, cellData w, cellCmd_toNat w, cellData_toNat w, rfl⟩

end Sys2Proof
end

section
/-! PROOFS. The sequencer (40_sequencer.md R150 to R166): what each step of ADVANCE does, an equation for each of its cases;
ADVANCE as a whole while the position stays inside the song; the length of a tick and of a row; the start of a FRAME; and a
frame between two ticks. -/

namespace Sys2Proof.Machine

/-! ### A register that counts -/

/-- A number that fits its register is stored as it is. -/
theorem toNat_ofNat_of_lt {w k : Nat} (h : k < 2 ^ w) : (BitVec.ofNat w k).toNat = k :=
  (BitVec.toNat_ofNat k w).trans (Nat.mod_eq_of_lt h)

theorem ofNat_toNat_succ {w : Nat} (x : BitVec w) : BitVec.ofNat w (x.toNat + 1) = x + 1 := by
  rw [BitVec.ofNat_add, BitVec.ofNat_toNat, BitVec.setWidth_eq]
  rfl

/-! ### The tick accumulator, step 2 (R153, R154) -/

theorem advanceTick_counts {p : Player} (h : p.offset.toNat + 1 ≤ p.spt) :
    advanceTick p = { p with offset := BitVec.ofNat 32 (p.offset.toNat + 1) } :=
  if_neg (Nat.not_lt.mpr h)

theorem advanceTick_fires {p : Player} (h : p.spt < p.offset.toNat + 1) :
    advanceTick p =
      { p with tick := BitVec.ofNat 6 (p.tick.toNat + 1), offset := 0, flags := p.flags ||| newTickBit } :=
  if_pos h

/-- From a bpm of 33 on no rate gives an `spt` that the frame counter cannot hold. -/
theorem spt_lt {p : Player} (h : 33 ≤ p.bpm.toNat) : p.spt < 2 ^ 32 :=
  (samplesPerTick_le (Nat.le_sub_one_of_lt p.sampleRate.isLt) h (by decide)).trans_lt
    (by decide : maxSamplesPerTick < 2 ^ 32)

/-! ### The row end, step 3 (R155 to R160) -/

theorem flag_loopBit (p : Player) : p.flag loopBit = p.flags.getLsbD 6 := by
  simp only [Player.flag]
  generalize p.flags = f
  revert f
  decide

theorem flag_breakBit (p : Player) : p.flag breakBit = p.flags.getLsbD 4 := by
  simp only [Player.flag]
  generalize p.flags = f
  revert f
  decide

theorem resolveRow_loop {p : Player} (hloop : p.flag loopBit = true) : resolveRow p = resolveLoop p :=
  if_pos hloop

/-- A break is resolved only where no loop is (R157). -/
theorem resolveRow_break {p : Player} (hloop : p.flag loopBit = false) (hbreak : p.flag breakBit = true) :
    resolveRow p = resolveBreak p := by
  rw [resolveRow, hloop, if_neg Bool.false_ne_true, if_pos hbreak]

theorem resolveRow_increment {p : Player} (hloop : p.flag loopBit = false) (hbreak : p.flag breakBit = false) :
    resolveRow p = incrementRow p := by
  rw [resolveRow, hloop, if_neg Bool.false_ne_true, hbreak, if_neg Bool.false_ne_true]

theorem delayPending_iff (p : Player) :
    p.delayPending = true ↔ p.patternDelay ≠ 0 ∧ p.patternWait.toNat < p.patternDelay.toNat := by
  rw [Player.delayPending, Bool.and_eq_true, decide_eq_true_iff, decide_eq_true_iff]

theorem not_delayPending {p : Player} (h : p.patternDelay = 0 ∨ p.patternDelay.toNat ≤ p.patternWait.toNat) :
    p.delayPending = false := by
  rw [Bool.eq_false_iff, ne_eq, delayPending_iff]
  rintro ⟨hne, hlt⟩
  exact h.elim hne hlt.not_ge

/-- Below the speed the row goes on. -/
theorem advanceRow_below {p : Player} (h : p.tick.toNat < p.speed.toNat) : advanceRow p = p :=
  if_neg (Nat.not_le.mpr h)

/-- At the row's end a pending delay runs the ticks again (R156). -/
theorem advanceRow_delays {p : Player} (h : p.speed.toNat ≤ p.tick.toNat) (hdelay : p.delayPending = true) :
    advanceRow p = { p with patternWait := BitVec.ofNat 4 (p.patternWait.toNat + 1), tick := 0 } := by
  rw [advanceRow, if_pos h, if_pos hdelay]

/-- At the row's end with no delay left the row changes as it is resolved, the delay cleared (R157). -/
theorem advanceRow_changes {p r : Player} (h : p.speed.toNat ≤ p.tick.toNat) (hdelay : p.delayPending = false)
    (hr : resolveRow { p with patternDelay := 0, patternWait := 0 } = r) :
    advanceRow p = { r with tick := 0, flags := r.flags ||| newRowBit } := by
  rw [advanceRow, if_pos h, hdelay, if_neg Bool.false_ne_true, changeRow, hr]

/-- Settles O49: the cases of the row end, and for a row that changes the three ways to resolve it. -/
theorem rowEndResolvesDelayLoopBreakIncrement : Obligations.RowEndResolvesDelayLoopBreakIncrement := by
  refine fun p => ⟨advanceRow_below, fun hend => ⟨fun hne hlt => ?_, fun hdelay => ?_⟩⟩
  · refine ⟨BitVec.ofNat 4 (p.patternWait.toNat + 1), ?_, advanceRow_delays hend ((delayPending_iff p).mpr ⟨hne, hlt⟩)⟩
    have hmax := p.patternDelay.isLt
    exact toNat_ofNat_of_lt (by omega)
  · have hpending := not_delayPending hdelay
    rw [← flag_loopBit, ← flag_breakBit]
    refine ⟨fun hloop => ?_, fun hloop hbreak => ?_, fun hloop hbreak hrow => ?_⟩
    · refine ⟨BitVec.ofNat 8 p.loopRow.toNat, ?_, advanceRow_changes hend hpending (resolveRow_loop hloop)⟩
      exact toNat_ofNat_of_lt (p.loopRow.isLt.trans (by decide))
    · refine ⟨BitVec.ofNat 9 p.patternJump.toNat, ?_, advanceRow_changes hend hpending (resolveRow_break hloop hbreak)⟩
      exact toNat_ofNat_of_lt (p.patternJump.isLt.trans (by decide))
    · refine ⟨BitVec.ofNat 8 (p.row.toNat + 1), ?_, advanceRow_changes hend hpending (resolveRow_increment hloop hbreak)⟩
      exact toNat_ofNat_of_lt (by omega)

/-! ### Row and position overflow, steps 4 and 5 (R161, R162) -/

theorem advancePosition_inside {p : Player} (h : p.row.toNat < 64) : advancePosition p = p :=
  if_neg (Nat.not_le.mpr h)

theorem advancePosition_overflow {p : Player} (h : 64 ≤ p.row.toNat) :
    advancePosition p =
      { p with
        songPosition := BitVec.ofNat 9 (p.songPosition.toNat + 1)
        row := 0
        flags := p.flags ||| newPosBit } :=
  if_pos h

theorem checkSongEnd_inside {len : BitVec 8} {p : Player} (h : p.songPosition.toNat < len.toNat) :
    checkSongEnd len p = p :=
  if_neg (Nat.not_le.mpr h)

theorem checkSongEnd_repeats {len : BitVec 8} {p : Player} (h : len.toNat ≤ p.songPosition.toNat)
    (hrepeat : p.repeatFlag = true) : checkSongEnd len p = { p with songPosition := 0 } := by
  rw [checkSongEnd, if_pos h, if_pos hrepeat]

theorem checkSongEnd_ends {len : BitVec 8} {p : Player} (h : len.toNat ≤ p.songPosition.toNat)
    (hrepeat : p.repeatFlag = false) :
    checkSongEnd len p =
      { p with endOfSong := true, flags := p.flags &&& ~~~(newTickBit ||| newRowBit ||| newPosBit) } := by
  rw [checkSongEnd, if_pos h, hrepeat, if_neg Bool.false_ne_true]

/-- Settles O50: ADVANCE is its steps by definition, and each step's cases are its own equations. -/
theorem positionOverflowWrapsOrEndsTheSong : Obligations.PositionOverflowWrapsOrEndsTheSong := by
  refine ⟨fun len p => rfl, ?_, fun p => ⟨advancePosition_inside, fun h hposition => ?_⟩,
    fun len p => ⟨checkSongEnd_inside, checkSongEnd_repeats, checkSongEnd_ends⟩⟩
  · intro p spt hspt _ hoffset htick
    obtain rfl : spt = p.spt := hspt
    refine ⟨fun h => ?_, fun h => ?_⟩
    · exact ⟨BitVec.ofNat 6 (p.tick.toNat + 1), toNat_ofNat_of_lt (by omega), advanceTick_fires h⟩
    · exact ⟨BitVec.ofNat 32 (p.offset.toNat + 1), toNat_ofNat_of_lt (by omega), advanceTick_counts h⟩
  · exact ⟨BitVec.ofNat 9 (p.songPosition.toNat + 1), toNat_ofNat_of_lt (by omega), advancePosition_overflow h⟩

/-! ### ADVANCE while row and position stay inside the song -/

/-- Steps 4 and 5 do nothing to a row below 64 at a position inside the song. -/
theorem advance_inside {len : BitVec 8} {p q : Player} (h : advanceRow (advanceTick p) = q) (hrow : q.row.toNat < 64)
    (hposition : q.songPosition.toNat < len.toNat) : advance len p = q := by
  rw [advance, h, advancePosition_inside hrow, checkSongEnd_inside hposition]

theorem no_mark_pending {p : Player} (h : p.flags &&& pendingMask = 0) :
    p.flag loopBit = false ∧ p.flag breakBit = false := by
  simp only [Player.flag]
  generalize p.flags = f at h ⊢
  revert f
  decide

section Inside

variable {len : BitVec 8} {p : Player}

/-- Inside a tick ADVANCE counts the frame alone. -/
theorem advance_counts {j : Nat} (hj : p.offset.toNat = j) (hspt : j + 1 ≤ p.spt) (htick : p.tick.toNat < p.speed.toNat)
    (hrow : p.row.toNat < 64) (hposition : p.songPosition.toNat < len.toNat) :
    advance len p = { p with offset := BitVec.ofNat 32 (j + 1) } := by
  subst hj
  refine advance_inside ?_ hrow hposition
  rw [advanceTick_counts hspt]
  exact advanceRow_below htick

/-- On the last frame of a tick that is not the row's last, ADVANCE starts the next tick. -/
theorem advance_ticks {t : Nat} (ht : p.tick.toNat = t) (hspt : p.spt < p.offset.toNat + 1)
    (htick : t + 1 < p.speed.toNat) (hrow : p.row.toNat < 64) (hposition : p.songPosition.toNat < len.toNat) :
    advance len p = { p with tick := BitVec.ofNat 6 (t + 1), offset := 0, flags := p.flags ||| newTickBit } := by
  subst ht
  refine advance_inside ?_ hrow hposition
  rw [advanceTick_fires hspt]
  refine advanceRow_below ?_
  dsimp only
  rwa [toNat_ofNat_of_lt (htick.trans p.speed.isLt)]

/-- On the last frame of the row's last tick, with no delay, break or loop pending, ADVANCE goes to the next row. -/
theorem advance_increments (hspt : p.spt < p.offset.toNat + 1) (htick : p.tick.toNat + 1 = p.speed.toNat)
    (hdelay : p.patternDelay = 0) (hwait : p.patternWait = 0) (hmarks : p.flags &&& pendingMask = 0)
    (hrow : p.row.toNat < 63) (hposition : p.songPosition.toNat < len.toNat) :
    advance len p =
      { p with
        row := p.row + 1
        tick := 0
        offset := 0
        flags := p.flags ||| newTickBit ||| newRowBit } := by
  have hrow' : (BitVec.ofNat 8 (p.row.toNat + 1)).toNat = p.row.toNat + 1 := toNat_ofNat_of_lt (by omega)
  have hmarks' : (p.flags ||| newTickBit) &&& pendingMask = 0 := or_mask_eq_zero hmarks (by decide)
  rw [← ofNat_toNat_succ p.row]
  refine advance_inside ?_ (by dsimp only; omega) hposition
  obtain ⟨hloop, hbreak⟩ := no_mark_pending (p := advanceTick p) (by rwa [advanceTick_fires hspt])
  have hlast : (advanceTick p).speed.toNat ≤ (advanceTick p).tick.toNat := by
    rw [advanceTick_fires hspt]
    exact (htick.symm.trans (toNat_ofNat_of_lt (htick ▸ p.speed.isLt)).symm).le
  rw [advanceRow_changes hlast (not_delayPending (Or.inl ?_)) (resolveRow_increment hloop hbreak),
    advanceTick_fires hspt]
  · rw [hdelay, hwait]
    rfl
  · rwa [advanceTick_fires hspt]

end Inside

/-! ### The length of a tick (R166) -/

theorem withOffset_self {p : Player} {offset : BitVec 32} (h : p.offset = offset) : { p with offset := offset } = p := by
  rw [← h]

/-- Up to `spt` ADVANCEs from a tick's start only count frames. -/
theorem iterate_advance_counts {len : BitVec 8} {p : Player} (hoffset : p.offset = 0) (hbpm : 33 ≤ p.bpm.toNat)
    (htick : p.tick.toNat < p.speed.toNat) (hrow : p.row.toNat < 64) (hposition : p.songPosition.toNat < len.toNat)
    (k : Nat) (hk : k ≤ p.spt) : (advance len)^[k] p = { p with offset := BitVec.ofNat 32 k } := by
  have hspt := spt_lt hbpm
  induction k with
  | zero => exact (withOffset_self hoffset).symm
  | succ k ih =>
    rw [Function.iterate_succ_apply', ih (by omega)]
    exact advance_counts (p := { p with offset := BitVec.ofNat 32 k }) (toNat_ofNat_of_lt (by omega)) hk htick hrow
      hposition

/-- Settles O51: `spt` counting ADVANCEs, then the one that starts the next tick. -/
theorem tickLastsOneMoreThanSamplesPerTick : Obligations.TickLastsOneMoreThanSamplesPerTick := by
  intro len p n hn hoffset hbpm htick hrow hposition
  obtain rfl : n = p.spt := hn
  have hcounts := iterate_advance_counts hoffset hbpm (by omega) hrow hposition
  refine ⟨hcounts, ?_⟩
  have hlast : (BitVec.ofNat 32 p.spt).toNat = p.spt := toNat_ofNat_of_lt (spt_lt hbpm)
  rw [Function.iterate_succ_apply', hcounts p.spt le_rfl, ← ofNat_toNat_succ p.tick, hoffset]
  exact advance_ticks rfl (hlast.symm ▸ Nat.lt_succ_self p.spt) htick hrow hposition

/-! ### The length of a row (R160, R163, R166) -/

/-- ADVANCE on the marks that the last frame's end has left (R163). -/
def frameAdvance (len : BitVec 8) (p : Player) : Player := advance len { p with flags := p.flags &&& pendingMask }

/-- The player registers of frame `j` of tick `t` of a row that starts at `p`, with the marks `f`. -/
def Player.atFrame (p : Player) (t j : Nat) (f : BitVec 8) : Player :=
  { p with tick := BitVec.ofNat 6 t, offset := BitVec.ofNat 32 j, flags := f }

/-- The player registers at the start of the row after `p`'s. -/
def Player.nextRow (p : Player) : Player :=
  { p with row := p.row + 1, tick := 0, offset := 0, flags := newTickBit ||| newRowBit }

/-- A row of a playing song with another row after it and no pattern delay. -/
structure Player.PlainRow (len : BitVec 8) (p : Player) : Prop where
  bpm_ge : 33 ≤ p.bpm.toNat
  no_delay : p.patternDelay = 0
  no_wait : p.patternWait = 0
  row_lt : p.row.toNat < 63
  position_lt : p.songPosition.toNat < len.toNat

section Row

variable {len : BitVec 8} {p : Player} {t j : Nat} {f : BitVec 8}

/-- With neither BREAK nor LOOP pending a frame starts with no mark. -/
theorem frameAdvance_atFrame (hf : f &&& pendingMask = 0) :
    frameAdvance len (p.atFrame t j f) = advance len (p.atFrame t j 0) := by
  rw [← hf]
  rfl

theorem atFrame_self (htick : p.tick = 0) (hoffset : p.offset = 0) : p.atFrame 0 0 p.flags = p := by
  have htick' : BitVec.ofNat 6 0 = p.tick := htick.symm
  have hoffset' : BitVec.ofNat 32 0 = p.offset := hoffset.symm
  rw [Player.atFrame, htick', hoffset']

theorem atFrame_tick (ht : t < p.speed.toNat) : (p.atFrame t j f).tick.toNat = t :=
  toNat_ofNat_of_lt (ht.trans p.speed.isLt)

theorem atFrame_offset (hp : p.PlainRow len) (hj : j ≤ p.spt) : (p.atFrame t j f).offset.toNat = j :=
  toNat_ofNat_of_lt (hj.trans_lt (spt_lt hp.bpm_ge))

/-- Frame `spt` is a tick's last. -/
theorem spt_lt_atFrame (hp : p.PlainRow len) : (p.atFrame t p.spt f).spt < (p.atFrame t p.spt f).offset.toNat + 1 := by
  rw [atFrame_offset hp le_rfl]
  exact Nat.lt_succ_self p.spt

/-- Inside a tick a frame is counted. -/
theorem frameAdvance_counts (hp : p.PlainRow len) (hf : f &&& pendingMask = 0) (ht : t < p.speed.toNat)
    (hj : j + 1 ≤ p.spt) : frameAdvance len (p.atFrame t j f) = p.atFrame t (j + 1) 0 := by
  rw [frameAdvance_atFrame hf]
  exact advance_counts (atFrame_offset hp (by omega)) hj ((atFrame_tick ht).trans_lt ht) (hp.row_lt.trans (by decide))
    hp.position_lt

/-- The frame after a tick's last starts the next tick. -/
theorem frameAdvance_ticks (hp : p.PlainRow len) (hf : f &&& pendingMask = 0) (ht : t + 1 < p.speed.toNat) :
    frameAdvance len (p.atFrame t p.spt f) = p.atFrame (t + 1) 0 newTickBit := by
  rw [frameAdvance_atFrame hf, advance_ticks (atFrame_tick (by omega)) (spt_lt_atFrame hp) ht
    (hp.row_lt.trans (by decide)) hp.position_lt]
  simp [Player.atFrame]

/-- The frame after the last tick's last starts the next row. -/
theorem frameAdvance_increments (hp : p.PlainRow len) (hf : f &&& pendingMask = 0) (ht : t + 1 = p.speed.toNat) :
    frameAdvance len (p.atFrame t p.spt f) = p.nextRow := by
  have htick : (p.atFrame t p.spt 0).tick.toNat = t := atFrame_tick (by omega)
  have hmarks : (p.atFrame t p.spt 0).flags &&& pendingMask = 0 := BitVec.zero_and
  rw [frameAdvance_atFrame hf, advance_increments (spt_lt_atFrame hp) (by rw [htick]; exact ht) hp.no_delay hp.no_wait
    hmarks hp.row_lt hp.position_lt]
  simp [Player.atFrame, Player.nextRow]

/-- From a tick's start on, `j` frames are counted. -/
theorem iterate_frames {k : Nat} {q : Player} (hp : p.PlainRow len) (hf : f &&& pendingMask = 0) (ht : t < p.speed.toNat)
    (hstart : (frameAdvance len)^[k] q = p.atFrame t 0 f) (hj : j ≤ p.spt) :
    ∃ f', f' &&& pendingMask = 0 ∧ (frameAdvance len)^[k + j] q = p.atFrame t j f' := by
  induction j with
  | zero => exact ⟨f, hf, hstart⟩
  | succ j ih =>
    obtain ⟨f', hf', hbefore⟩ := ih (by omega)
    refine ⟨0, rfl, ?_⟩
    rw [← Nat.add_assoc, Function.iterate_succ_apply', hbefore]
    exact frameAdvance_counts hp hf' ht hj

/-- Where a row stands after `t` whole ticks and `j` frames. -/
theorem iterate_frameAdvance (hp : p.PlainRow len) (htick : p.tick = 0) (hoffset : p.offset = 0)
    (hf : p.flags &&& pendingMask = 0) (t j : Nat) (ht : t < p.speed.toNat) (hj : j ≤ p.spt) :
    ∃ f, f &&& pendingMask = 0 ∧ (frameAdvance len)^[t * (p.spt + 1) + j] p = p.atFrame t j f := by
  induction t generalizing j with
  | zero =>
    have hstart : (frameAdvance len)^[0 * (p.spt + 1)] p = p.atFrame 0 0 p.flags := by
      rw [Nat.zero_mul, atFrame_self htick hoffset]
      rfl
    exact iterate_frames hp hf ht hstart hj
  | succ t iht =>
    obtain ⟨f, hf', hlast⟩ := iht p.spt (by omega) le_rfl
    have hstart : (frameAdvance len)^[(t + 1) * (p.spt + 1)] p = p.atFrame (t + 1) 0 newTickBit := by
      rw [Nat.succ_mul, ← Nat.add_assoc, Function.iterate_succ_apply', hlast]
      exact frameAdvance_ticks hp hf' ht
    exact iterate_frames hp (by decide) ht hstart hj

end Row

/-- Settles O52: the row's last frame is frame `spt` of tick `speed - 1`, and the next one starts the next row. -/
theorem rowLastsSpeedTicks : Obligations.RowLastsSpeedTicks := by
  intro len p n hn hoffset htick hbpm hpos _ hf hdelay hwait hrow hposition
  obtain rfl : n = p.spt := hn
  have hp : p.PlainRow len := ⟨hbpm, hdelay, hwait, hrow, hposition⟩
  have hframe := iterate_frameAdvance hp htick hoffset hf
  change (∀ k < _, ((frameAdvance len)^[k] p).row = p.row ∧ ((frameAdvance len)^[k] p).songPosition = p.songPosition) ∧
    (frameAdvance len)^[_] p = _
  refine ⟨fun k hk => ?_, ?_⟩
  · obtain ⟨f, -, hk'⟩ := hframe (k / (p.spt + 1)) (k % (p.spt + 1))
      (Nat.div_lt_of_lt_mul (by rwa [Nat.mul_comm])) (Nat.le_of_lt_succ (Nat.mod_lt k (Nat.succ_pos _)))
    rw [Nat.div_add_mod'] at hk'
    rw [hk']
    exact ⟨rfl, rfl⟩
  · obtain ⟨t, ht⟩ : ∃ t, t + 1 = p.speed.toNat := ⟨p.speed.toNat - 1, by omega⟩
    obtain ⟨f, hf', hlast⟩ := hframe t p.spt (by omega) le_rfl
    rw [← ht, Nat.succ_mul, ← Nat.add_assoc, Function.iterate_succ_apply', hlast,
      frameAdvance_increments hp hf' ht, Player.nextRow, ← htick, ← hoffset]
    rfl

/-! ### The start of a FRAME (R150 to R152) -/

/-- A FRAME that waits first in the queue of an idle machine is started by the next step (45_host_operations.md R300). -/
theorem step_frame {s : State} {rest : List HostOp} (hb : s.busy = false) (hhost : s.host = .frame :: rest) :
    step s = .next (frameStart { s with host := rest }) := by
  rw [step, if_neg (Bool.eq_false_iff.mp hb), stepHost, hhost]
  rfl

theorem gateOpen_eq_false_iff (p : Player) :
    p.gateOpen = false ↔ p.valid = false ∨ p.playing = false ∨ p.paused = true := by
  rw [Player.gateOpen, Bool.and_eq_false_iff, Bool.and_eq_false_iff, Bool.not_eq_false', or_assoc]

theorem frameStart_closed {s : State} (hgate : s.p.gateOpen = false) :
    frameStart s = (s.onPlayer clearAccumulators).answer (.frame realZero realZero) :=
  if_neg (Bool.eq_false_iff.mp hgate)

theorem frameStart_open {s : State} (hgate : s.p.gateOpen = true) :
    frameStart s = enterChannels (sequence (s.onPlayer clearAccumulators)) :=
  if_pos hgate

theorem enterChannels_of_ne_zero {s : State} (h : s.m.nch ≠ 0) : enterChannels s = { s with busy := true, chan := 0 } :=
  if_neg h

/-- ADVANCE runs once, unless the song has ended (R152). -/
theorem sequence_eq (s : State) :
    sequence s = { s with p := if s.p.endOfSong then s.p else advance s.m.songLength s.p } := by
  cases hend : s.p.endOfSong with
  | true => exact sequence_ended hend
  | false => exact sequence_playing hend

/-- Settles O11: with the gate closed the frame's start is its own end. -/
theorem closedGateFrameOnlyClearsAccumulators : Obligations.ClosedGateFrameOnlyClearsAccumulators := by
  intro s rest hb hhost hclosed
  have hgate : ({ s with host := rest } : State).p.gateOpen = false := (gateOpen_eq_false_iff s.p).mpr hclosed
  rw [step_frame hb hhost, frameStart_closed hgate]
  rfl

/-- Settles O12: the frame's start with the gate open. -/
theorem openGateFrameAdvancesOnce : Obligations.OpenGateFrameAdvancesOnce := by
  intro s rest hb hhost hnch hvalid hplaying hpaused
  have hgate : ({ s with host := rest } : State).p.gateOpen = true := by
    rw [Player.gateOpen, hvalid, hplaying, hpaused]
    rfl
  rw [step_frame hb hhost, frameStart_open hgate, sequence_eq]
  exact congrArg Host.Outcome.next (enterChannels_of_ne_zero hnch)

/-! ### A frame between two ticks (R165) -/

section BetweenTicks

variable {s : State} (h : s.newTick = false)
include h

theorem runCell_between (c : BitVec 4) (d n : BitVec 8) (q : BitVec 12) (t0 t1 : State → State) :
    runCell c d n q t0 t1 s = .next (loadCell c d n q s) := by
  rw [runCell, dispatch_none _ t0 t1 ((loadCell_newTick s c d n q).trans h)]

theorem runDeferred_between (c : BitVec 4) (d : BitVec 8) (t0 t1 : State → State) :
    runDeferred c d t0 t1 s = .next (loadDeferred c d s) := by
  rw [runDeferred, dispatch_none _ t0 t1 ((loadDeferred_newTick s c d).trans h)]

end BetweenTicks

/-- The instruction is a cell of its own fields with some two handlers. -/
def RunsItsCell (i : Instr) : Prop :=
  ∃ t0 t1, ∀ s, exec i s = runCell (cellCmd (encode i)) (cellData (encode i)) i.smp i.period t0 t1 s

theorem runsItsCell_of_encode {i : Instr} {c : BitVec 4} {d : BitVec 8} {t0 t1 : State → State}
    (hexec : ∀ s, exec i s = runCell c d i.smp i.period t0 t1 s) (hencode : encode i = packCell i.smp i.period c d) :
    RunsItsCell i := by
  refine ⟨t0, t1, fun s => ?_⟩
  rw [hexec, hencode, cellCmd_packCell, cellData_packCell]

/-- Every instruction but DELAYNOTE is a cell of its own fields. -/
theorem runsItsCell {i : Instr} (h : i.opcode ≠ .delaynote) : RunsItsCell i := by
  cases i with
  | delaynote => exact absurd rfl h
  | _ => exact runsItsCell_of_encode (fun _ => rfl) rfl

/-- Settles O24: between ticks a cell, deferred or not, is its row load. -/
theorem noHandlerRunsBetweenTicks : Obligations.NoHandlerRunsBetweenTicks := by
  intro i s hs
  by_cases hi : i.opcode = .delaynote
  · rw [if_pos hi]
    cases i with
    | delaynote n q y =>
      rw [encode, cellCmd_packCell, cellData_packCell]
      exact runDeferred_between hs ..
    | _ => contradiction
  · obtain ⟨t0, t1, hexec⟩ := runsItsCell hi
    rw [if_neg hi, hexec, runCell_between hs]

end Sys2Proof.Machine
end

section
/-! PROOFS. The pitch effects (41_pitch_effects.md): what a cell's handler does on a new-tick frame, the value and the frame
of each shared procedure, and from these the statement of each instruction. -/

namespace Sys2Proof.Machine

/-! ### A cell on a new-tick frame (40_sequencer.md R165) -/

section OnTick

variable {s : State} (h : s.newTick = true) {c : BitVec 4} {d n : BitVec 8} {q : BitVec 12} {t0 t1 : State → State}
include h

/-- At tick 0 the tick-0 handler runs on the row load's result. -/
theorem runCell_tick0 (h0 : s.p.tick = 0) : runCell c d n q t0 t1 s = .next (t0 (loadCell c d n q s)) := by
  rw [runCell, dispatch_tick0 _ t0 t1 ((loadCell_newTick s c d n q).trans h) (by rwa [loadCell_p])]

/-- At a later tick the tick>0 handler runs on the row load's result. -/
theorem runCell_later (h0 : s.p.tick ≠ 0) : runCell c d n q t0 t1 s = .next (t1 (loadCell c d n q s)) := by
  rw [runCell, dispatch_later _ t0 t1 ((loadCell_newTick s c d n q).trans h) (by rwa [loadCell_p])]

/-- At tick 0 a handler of the voice writes its result and nothing else. -/
theorem runCell_tick0_voice (h0 : s.p.tick = 0) {g : Voice → Voice} {v : Voice}
    (hg : g (loadCell c d n q s).voice = v) :
    runCell c d n q (State.onVoice g) t1 s = .next ((loadCell c d n q s).setVoice v) := by
  rw [runCell_tick0 h h0, State.onVoice, hg]

/-- At a later tick a handler of the voice writes its result and nothing else. -/
theorem runCell_later_voice (h0 : s.p.tick ≠ 0) {g : Voice → Voice} {v : Voice}
    (hg : g (loadCell c d n q s).voice = v) :
    runCell c d n q t0 (State.onVoice g) s = .next ((loadCell c d n q s).setVoice v) := by
  rw [runCell_later h h0, State.onVoice, hg]

end OnTick

/-! ### The period slides (R183, R184, R189, R190) -/

/-- The clamped period fits its register, so it is stored as it is (00_scope.md R10). -/
theorem clampP_toNat (p : Int) : ((clampP p).toNat : Int) = max 113 (min p 856) := by
  rw [clampP, BitVec.toNat_ofInt]
  omega

/-- Both dirty marks at once. -/
theorem recalcBoth_eq (f : BitVec 2) : f ||| recalcSpeed ||| recalcNote = f ||| 3 := by
  rw [BitVec.or_assoc]
  rfl

/-- A slide writes the clamped period and both dirty marks. -/
theorem slidePeriod_eq (delta : Int) (v : Voice) :
    slidePeriod delta v = { v with period := clampP (v.period.toNat + delta), chflags := v.chflags ||| 3 } := by
  rw [slidePeriod, recalcBoth_eq]

theorem storeSlideSpeed_eq (d : BitVec 8) (v : Voice) :
    storeSlideSpeed d v = { v with slidespeed := if d = 0 then v.slidespeed else d } := by
  rw [storeSlideSpeed, ite_not]
  split <;> rfl

/-- Settles O26: the speed is stored at tick 0, and each later tick is one clamped slide by it. -/
theorem portUpAndDownSlideThePeriod : Obligations.PortUpAndDownSlideThePeriod := by
  intro smp period data s h
  refine ⟨⟨fun h0 => ?_, fun h0 => ⟨_, clampP_toNat _, ?_⟩⟩, ⟨fun h0 => ?_, fun h0 => ⟨_, clampP_toNat _, ?_⟩⟩⟩
  · exact runCell_tick0_voice h h0 (storeSlideSpeed_eq data _)
  · exact runCell_later_voice h h0 (slidePeriod_eq _ _)
  · exact runCell_tick0_voice h h0 (storeSlideSpeed_eq data _)
  · exact runCell_later_voice h h0 (slidePeriod_eq _ _)

/-- Settles O30: one clamped slide by the operand at tick 0, and no handler later. -/
theorem fineSlidesMoveThePeriodOnce : Obligations.FineSlidesMoveThePeriodOnce := by
  intro smp period y s h
  refine ⟨⟨fun h0 => ⟨_, clampP_toNat _, ?_⟩, fun h0 => ?_⟩, ⟨fun h0 => ⟨_, clampP_toNat _, ?_⟩, fun h0 => ?_⟩⟩
  · exact runCell_tick0_voice h h0 (slidePeriod_eq _ _)
  · exact runCell_later h h0
  · exact runCell_tick0_voice h h0 (slidePeriod_eq _ _)
  · exact runCell_later h h0

/-! ### The step toward the target (R181, R185) -/

section Target

variable {period target : BitVec 12} (speed : BitVec 8)

theorem stepPeriod_below (h : period.toNat < target.toNat) :
    (stepPeriod period target speed).toNat = min (period.toNat + speed.toNat) target.toNat := by
  have ht := target.isLt
  rw [stepPeriod, if_pos h, BitVec.toNat_ofInt]
  omega

theorem stepPeriod_above (h : target.toNat < period.toNat) :
    ((stepPeriod period target speed).toNat : Int) = max ((period.toNat : Int) - speed.toNat) target.toNat := by
  have hp := period.isLt
  rw [stepPeriod, if_neg h.not_gt, if_pos h, BitVec.toNat_ofInt]
  omega

theorem stepPeriod_reached (h : period = target) : stepPeriod period target speed = period := by
  rw [stepPeriod, h, if_neg (lt_irrefl _), if_neg (lt_irrefl _)]

end Target

/-- A step toward the target writes the period and both dirty marks. -/
theorem stepToTarget_eq (v : Voice) :
    stepToTarget v =
      { v with period := stepPeriod v.period v.slideto v.slidetospeed, chflags := v.chflags ||| 3 } := by
  rw [stepToTarget, recalcBoth_eq]

theorem storeTargetSpeed_eq (d : BitVec 8) (v : Voice) :
    storeTargetSpeed d v = { v with slidetospeed := if d = 0 then v.slidetospeed else d } := by
  rw [storeTargetSpeed, ite_not]
  split <;> rfl

/-- Settles O27: the speed is stored at tick 0, and each later tick is one step, below, above or at the target. -/
theorem tonePortaStepsTowardItsTarget : Obligations.TonePortaStepsTowardItsTarget := by
  intro smp period data s h
  refine ⟨fun h0 => ?_, fun h0 => ⟨_, stepPeriod_below _, stepPeriod_above _, stepPeriod_reached _, ?_⟩⟩
  · exact runCell_tick0_voice h h0 (storeTargetSpeed_eq data _)
  · exact runCell_later_voice h h0 (stepToTarget_eq _)

/-! ### The arpeggio (R182) -/

/-- Without an interval the arpeggio does nothing. -/
theorem arpeggioStep_of_zero {v : Voice} (hv : v.arpeggio = 0) (tick : Nat) : arpeggioStep tick v = v :=
  if_neg (not_not_intro hv)

/-- With an interval the arpeggio sets the table period of the cycled note, if there is one, and marks the speed. -/
theorem arpeggioStep_of_ne_zero {v : Voice} (hv : v.arpeggio ≠ 0) (tick : Nat) :
    arpeggioStep tick v =
      { v with
        vmod :=
          if v.note.toNat + arpeggioOffset v.arpeggio tick ≤ 35 then
            .set (fOfNat (periodTab (v.note.toNat + arpeggioOffset v.arpeggio tick)))
          else v.vmod
        chflags := v.chflags ||| 1 } :=
  if_pos hv

/-- The offset in integers: 0, the high nibble or the low nibble of the interval. -/
theorem arpeggioOffset_eq (interval : BitVec 8) (tick : Nat) :
    arpeggioOffset interval tick =
      if tick % 3 = 0 then 0 else if tick % 3 = 1 then interval.toNat / 16 else interval.toNat % 16 := by
  rw [arpeggioOffset, dataX_toNat, dataY_toNat]

/-- After tick 0 ARP makes one arpeggio step at the frame's tick. -/
theorem exec_arp_later {s : State} (h : s.newTick = true) (h0 : s.p.tick ≠ 0) (smp : BitVec 8) (period : BitVec 12)
    (x y : BitVec 4) :
    exec (.arp smp period x y) s =
      .next ((loadCell 0x0 (x ++ y) smp period s).onVoice (arpeggioStep s.p.tick.toNat)) := by
  refine (runCell_later h h0).trans ?_
  rw [loadCell_p]
  rfl

/-- Settles O25: the interval is stored at tick 0, and later it decides what the step does. -/
theorem arpStoresThenCyclesTheTable : Obligations.ArpStoresThenCyclesTheTable := by
  intro smp period x y s h
  refine ⟨fun h0 => ?_, fun h0 hv => ?_, fun h0 hv => ?_⟩
  · exact runCell_tick0_voice h h0 rfl
  · rw [exec_arp_later h h0, State.onVoice, arpeggioStep_of_zero hv, setVoice_self]
  · rw [exec_arp_later h h0, State.onVoice, arpeggioStep_of_ne_zero hv, arpeggioOffset_eq]

/-! ### The vibrato (R180, R186) -/

/-- The sine table's second half is the first negated (20_memory.md R102). -/
theorem vibTab_sine (p : BitVec 6) :
    vibTab 0 p = (if p.toNat < 32 then 1 else -1) * sineHalf.getD (p.toNat % 32) 0 := by
  have hp := p.isLt
  rw [vibTab, if_pos rfl]
  split
  · next hlow => rw [Nat.mod_eq_of_lt hlow, one_mul]
  · next hhigh => rw [show p.toNat % 32 = p.toNat - 32 by omega, neg_one_mul]

/-- The descending ramp (20_memory.md R103). -/
theorem vibTab_ramp (p : BitVec 6) : vibTab 1 p = 127 - 4 * (p.toNat : Int) := rfl

/-- The square wave (20_memory.md R103). -/
theorem vibTab_square (p : BitVec 6) : vibTab 2 p = if p.toNat < 32 then 127 else -127 := rfl

/-- The random table, whatever the implementation fixes (20_memory.md R104). -/
theorem vibTab_random (p : BitVec 6) : vibTab 3 p = ((Config.vibrandRaw p.toFin : Nat) : Int) - 127 := rfl

theorem abs_sineHalf_le : ∀ w ∈ sineHalf, |w| ≤ 127 := by decide

/-- Every entry of every waveform is at most 127 in magnitude. -/
theorem abs_vibTab_le (wave : BitVec 2) (p : BitVec 6) : |vibTab wave p| ≤ 127 := by
  have hp := p.isLt
  match wave with
  | 0 =>
    have hindex : p.toNat % 32 < sineHalf.length := Nat.mod_lt _ (by decide)
    have hsine : |sineHalf.getD (p.toNat % 32) 0| ≤ 127 := by
      rw [List.getD_eq_getElem _ _ hindex]
      exact abs_sineHalf_le _ (List.getElem_mem hindex)
    rw [vibTab_sine, abs_mul]
    split
    · rwa [abs_one, one_mul]
    · rwa [abs_neg, abs_one, one_mul]
  | 1 =>
    rw [vibTab_ramp, abs_le]
    omega
  | 2 =>
    rw [vibTab_square]
    split <;> decide
  | 3 =>
    have hrandom := (Config.vibrandRaw p.toFin).isLt
    rw [vibTab_random, abs_le]
    omega

/-- The integer product of the waveform engine is at most `15 * 127` in magnitude. -/
theorem abs_depth_mul_vibTab_le (depth : BitVec 4) (wave : BitVec 2) (p : BitVec 6) :
    |(depth.toNat : Int) * vibTab wave p| ≤ 1905 := by
  have hdepth := depth.isLt
  calc |(depth.toNat : Int) * vibTab wave p|
      = depth.toNat * |vibTab wave p| := by rw [abs_mul, Nat.abs_cast]
    _ ≤ 15 * 127 := mul_le_mul (by omega) (abs_vibTab_le wave p) (abs_nonneg _) (by decide)

/-- On every tick VIBRATO makes one vibrato step, with the nonzero nibbles stored first at tick 0. -/
theorem exec_vibrato {s : State} (h : s.newTick = true) (smp : BitVec 8) (period : BitVec 12) (x y : BitVec 4) :
    let t := loadCell 0x4 (x ++ y) smp period s
    exec (.vibrato smp period x y) s = .next
      (t.setVoice (vibratoStep
        { t.voice with
          vibratodepth := if s.p.tick = 0 ∧ y ≠ 0 then y else t.voice.vibratodepth
          vibratospeed := if s.p.tick = 0 ∧ x ≠ 0 then x else t.voice.vibratospeed })) := by
  by_cases h0 : s.p.tick = 0
  · simp only [h0, true_and]
    exact runCell_tick0_voice h h0 rfl
  · simp only [h0, false_and, if_false]
    exact runCell_later_voice h h0 rfl

/-- The phase after a step is stored as it is. -/
theorem vibratoStep_vibratopos (v : Voice) :
    (vibratoStep v).vibratopos.toNat = (v.vibratopos.toNat + v.vibratospeed.toNat) % 64 :=
  toNat_ofNat_of_lt (Nat.mod_lt _ (by decide))

/-- Settles O28: the printed tables, the bound of the product, and one step on every tick. -/
theorem vibratoModulatesOnEveryTick : Obligations.VibratoModulatesOnEveryTick := by
  refine ⟨fun p => ⟨vibTab_sine p, vibTab_ramp p, vibTab_square p⟩,
    fun depth wave pos => abs_le.mp (abs_depth_mul_vibTab_le depth wave pos), fun smp period x y s h => ?_⟩
  exact ⟨_, vibratoStep_vibratopos _, exec_vibrato h smp period x y⟩

/-! ### The volume slide (42_volume_sample_effects.md R210) -/

/-- The volume after a slide, in integers. -/
theorem volumeSlide_volume (x y : BitVec 4) (v : Voice) :
    ((volumeSlide x y v).volume.toNat : Int) =
      if x ≠ 0 ∧ y = 0 then min ((v.volume.toNat : Int) + x.toNat) 64
      else if x = 0 ∧ y ≠ 0 then max ((v.volume.toNat : Int) - y.toNat) 0 else v.volume.toNat := by
  have hvolume := v.volume.isLt
  unfold volumeSlide
  split
  · rw [toNat_ofNat_of_lt (by omega)]
    omega
  · split
    · rw [BitVec.toNat_ofInt]
      omega
    · rfl

/-- A volume slide writes the volume alone. -/
theorem volumeSlide_eq (x y : BitVec 4) (v : Voice) :
    volumeSlide x y v = { v with volume := (volumeSlide x y v).volume } := by
  unfold volumeSlide
  split
  · rfl
  · split <;> rfl

/-- A step toward the target and a volume slide write the period, both dirty marks and the volume. -/
theorem volumeSlide_stepToTarget (x y : BitVec 4) (v : Voice) :
    volumeSlide x y (stepToTarget v) =
      { v with
        period := stepPeriod v.period v.slideto v.slidetospeed
        chflags := v.chflags ||| 3
        volume := (volumeSlide x y (stepToTarget v)).volume } := by
  rw [← recalcBoth_eq]
  exact volumeSlide_eq x y (stepToTarget v)

/-- Settles O29: no handler at tick 0, later the step of command 3 or 4 and then the volume slide. -/
theorem toneVolAndVibVolSlideTheVolumeToo : Obligations.ToneVolAndVibVolSlideTheVolumeToo := by
  intro smp period x y s h
  constructor
  · refine ⟨fun h0 => runCell_tick0 h h0, fun h0 => ⟨_, _, stepPeriod_below _, stepPeriod_above _,
      stepPeriod_reached _, volumeSlide_volume x y (stepToTarget _), ?_⟩⟩
    exact runCell_later_voice h h0 (volumeSlide_stepToTarget x y _)
  · refine ⟨fun h0 => runCell_tick0 h h0, fun h0 => ⟨_, _, vibratoStep_vibratopos _,
      volumeSlide_volume x y (vibratoStep _), ?_⟩⟩
    exact runCell_later_voice h h0 (volumeSlide_eq x y _)

end Sys2Proof.Machine
end

section
/-! PROOFS. The volume and sample effects (42_volume_sample_effects.md) and VIBWAVE (41_pitch_effects.md R191): the value of
each stored operand, the handlers that are the same on every tick, and from these the statement of each instruction. -/

namespace Sys2Proof.Machine

/-! ### Operands stored at tick 0 (R191, R211, R213) -/

/-- The waveform is the operand's two low bits. -/
theorem waveform_toNat (y : BitVec 4) : (y.extractLsb' 0 2).toNat = y.toNat % 4 := by
  rw [BitVec.extractLsb'_toNat, Nat.shiftRight_zero]

/-- Settles O31: each stores its operand at tick 0, and no handler runs later. -/
theorem offsetSetVolAndVibWaveStoreTheirOperand : Obligations.OffsetSetVolAndVibWaveStoreTheirOperand := by
  intro smp period data y s h
  refine ⟨⟨fun h0 => ?_, runCell_later h⟩, ⟨fun h0 => ?_, runCell_later h⟩,
    ⟨fun h0 => ⟨_, waveform_toNat y, ?_⟩, runCell_later h⟩⟩
  · exact runCell_tick0_voice h h0 rfl
  · exact runCell_tick0_voice h h0 rfl
  · exact runCell_tick0_voice h h0 rfl

/-! ### The volume's own moves (R210, R212, R215, R216) -/

/-- Settles O32: no handler at tick 0, and each later tick is one volume slide. -/
theorem volSlideMovesTheVolumeAfterTickZero : Obligations.VolSlideMovesTheVolumeAfterTickZero := by
  intro smp period x y s h
  refine ⟨runCell_tick0 h, fun h0 => ⟨_, volumeSlide_volume x y _, ?_⟩⟩
  exact runCell_later_voice h h0 (volumeSlide_eq x y _)

/-- The clamped volume fits its register, so it is stored as it is (00_scope.md R10). -/
theorem clampV_toNat (v : Int) : ((clampV v).toNat : Int) = max 0 (min v 64) := by
  rw [clampV, BitVec.toNat_ofInt]
  omega

/-- Settles O34: one change by the operand at tick 0, clamped on both sides, and no handler later. -/
theorem fineVolumeClampsAtTickZero : Obligations.FineVolumeClampsAtTickZero := by
  intro smp period y s h
  refine ⟨⟨fun h0 => ⟨_, clampV_toNat _, ?_⟩, runCell_later h⟩, ⟨fun h0 => ⟨_, clampV_toNat _, ?_⟩, runCell_later h⟩⟩
  · exact runCell_tick0_voice h h0 rfl
  · exact runCell_tick0_voice h h0 rfl

/-! ### One handler on every tick (R214, R217, R218) -/

/-- On a new-tick frame a handler that stands on both ticks runs, whatever the tick. -/
theorem dispatch_same {s : State} (h : s.newTick = true) (t : State → State) : dispatch t t s = t s := by
  by_cases h0 : s.p.tick = 0
  · exact dispatch_tick0 s t t h h0
  · exact dispatch_later s t t h h0

section EveryTick

variable {s : State} (h : s.newTick = true) (c : BitVec 4) (d n : BitVec 8) (q : BitVec 12) (t : State → State)
include h

theorem runCell_same : runCell c d n q t t s = .next (t (loadCell c d n q s)) := by
  rw [runCell, dispatch_same ((loadCell_newTick s c d n q).trans h)]

theorem runDeferred_same : runDeferred c d t t s = .next (t (loadDeferred c d s)) := by
  rw [runDeferred, dispatch_same ((loadDeferred_newTick s c d).trans h)]

end EveryTick

/-- After a row load RETRIG resets the cursor when its nonzero operand divides the frame's tick. -/
theorem retrigger_loadCell (y : BitVec 4) (c : BitVec 4) (d n : BitVec 8) (q : BitVec 12) (s : State) :
    let t := loadCell c d n q s
    retrigger y t =
      if y ≠ 0 ∧ s.p.tick.toNat % y.toNat = 0 then t.setVoice { t.voice with samplepos := 0 } else t := by
  intro t
  rw [retrigger, loadCell_p]
  rfl

/-- After a row load CUT silences the voice when the frame's tick is its operand. -/
theorem cutNote_loadCell (y : BitVec 4) (c : BitVec 4) (d n : BitVec 8) (q : BitVec 12) (s : State) :
    let t := loadCell c d n q s
    cutNote y t = if s.p.tick.toNat = y.toNat then t.setVoice { t.voice with volume := 0 } else t := by
  intro t
  rw [cutNote, loadCell_p]
  rfl

/-- Settles O33: the handler runs on every tick, and its own condition decides. -/
theorem retrigAndCutActOnTheirTicks : Obligations.RetrigAndCutActOnTheirTicks := by
  intro smp period y s h
  constructor
  · exact (runCell_same h ..).trans (congrArg Host.Outcome.next (retrigger_loadCell y ..))
  · exact (runCell_same h ..).trans (congrArg Host.Outcome.next (cutNote_loadCell y ..))

/-- The deferred load writes neither the image nor the address of the channel's cell: the cell reads as before. -/
theorem loadDeferred_cellNow (c : BitVec 4) (d : BitVec 8) (s : State) :
    (loadDeferred c d s).memRead4 (loadDeferred c d s).cellAddrNow = s.memRead4 s.cellAddrNow := by
  unfold loadDeferred
  split <;> rfl

/-- After a deferred load, at the tick of the operand, DELAYNOTE runs NOTEON on the cell at the current address. -/
theorem delayedNote_strikes {s : State} {y : BitVec 4} (hy : s.p.tick.toNat = y.toNat) (c : BitVec 4) (d : BitVec 8) :
    let t := loadDeferred c d s
    let cell := s.memRead4 s.cellAddrNow
    delayedNote y t = t.setVoice (noteOn s.m (cellSmp cell) (cellPeriod cell) t.voice) := by
  intro t cell
  rw [delayedNote, loadDeferred_p, if_pos hy, loadDeferred_cellNow, loadDeferred_m]
  rfl

/-- After a deferred load, at another tick, DELAYNOTE does nothing. -/
theorem delayedNote_waits {s : State} {y : BitVec 4} (hy : s.p.tick.toNat ≠ y.toNat) (c : BitVec 4) (d : BitVec 8) :
    delayedNote y (loadDeferred c d s) = loadDeferred c d s := by
  rw [delayedNote, loadDeferred_p, if_neg hy]

/-- Settles O35: the latch alone, and at the tick of the operand the note-on of the cell read again. -/
theorem delayNoteStrikesAtItsTick : Obligations.DelayNoteStrikesAtItsTick := by
  intro smp period y s h
  refine ⟨fun hy => ?_, fun hy => ?_⟩
  · exact (runDeferred_same h ..).trans (congrArg Host.Outcome.next (delayedNote_strikes hy ..))
  · exact (runDeferred_same h ..).trans (congrArg Host.Outcome.next (delayedNote_waits hy ..))

end Sys2Proof.Machine
end

section
/-! PROOFS. The control-flow, timing and system effects and the no-op slots (43_flow_effects.md): what a cell with a handler
of the player registers does on a new-tick frame, an equation for each case of each request, and from these the statement of
each instruction. -/

namespace Sys2Proof.Machine

/-! ### A handler of the player registers (40_sequencer.md R165) -/

/-- Writing back the player registers that the row load left alone changes nothing. -/
theorem loadCell_setPlayer_self (c : BitVec 4) (d n : BitVec 8) (q : BitVec 12) (s : State) :
    (loadCell c d n q s).setPlayer s.p = loadCell c d n q s := by
  rw [← loadCell_p s c d n q, setPlayer_self]

section OnTickZero

variable {s : State} (h : s.newTick = true) (h0 : s.p.tick = 0) {c : BitVec 4} {d n : BitVec 8} {q : BitVec 12}
  {t1 : State → State} {g : Player → Player}
include h h0

/-- At tick 0 a handler of the player registers reads them as they were before the row load, and writes its result. -/
theorem runCell_tick0_player {p : Player} (hg : g s.p = p) :
    runCell c d n q (State.onPlayer g) t1 s = .next ((loadCell c d n q s).setPlayer p) := by
  rw [runCell_tick0 h h0, State.onPlayer, loadCell_p, hg]

/-- A handler that keeps the player registers leaves the row load's result. -/
theorem runCell_tick0_player_same (hg : g s.p = s.p) :
    runCell c d n q (State.onPlayer g) t1 s = .next (loadCell c d n q s) := by
  rw [runCell_tick0_player h h0 hg, loadCell_setPlayer_self]

end OnTickZero

/-- With no handler on either tick a cell is its row load, on every frame. -/
theorem runCell_noHandler (c : BitVec 4) (d n : BitVec 8) (q : BitVec 12) (s : State) :
    runCell c d n q noHandler noHandler s = .next (loadCell c d n q s) := by
  cases h : s.newTick with
  | false => exact runCell_between h ..
  | true => exact runCell_same h ..

/-! ### JUMP and BREAK (R230, R231) -/

/-- The position BREAK requests: a pending target is kept, else it is the next position. -/
def breakTarget (p : Player) : BitVec 8 :=
  if p.flag breakBit then p.patternJump else BitVec.ofNat 8 (p.songPosition.toNat + 1)

theorem requestBreak_eq (x y : BitVec 4) (p : Player) :
    requestBreak x y p =
      { p with breakRow := decimalRow x y, patternJump := breakTarget p, flags := p.flags ||| 0x10 } := rfl

theorem breakTarget_pending {p : Player} (hbreak : p.flags.getLsbD 4 = true) : breakTarget p = p.patternJump :=
  if_pos ((flag_breakBit p).trans hbreak)

/-- The next position fits its register, as a playing song is at 254 at most (10_state.md R45). -/
theorem breakTarget_next {p : Player} (hposition : p.songPosition.toNat ≤ 254) (hbreak : p.flags.getLsbD 4 = false) :
    (breakTarget p).toNat = p.songPosition.toNat + 1 := by
  rw [breakTarget, flag_breakBit, hbreak]
  exact toNat_ofNat_of_lt (by omega)

/-- Settles O36: each request at tick 0, and no handler later. -/
theorem jumpAndBreakRequestAPosition : Obligations.JumpAndBreakRequestAPosition := by
  intro smp period data x y s h
  refine ⟨⟨fun h0 => ?_, runCell_later h⟩, ⟨fun h0 hposition => ?_, runCell_later h⟩⟩
  · exact runCell_tick0_player h h0 rfl
  · refine ⟨_, _, decimalRow_toNat x y, breakTarget_pending, breakTarget_next hposition, ?_⟩
    exact runCell_tick0_player h h0 (requestBreak_eq x y s.p)

/-! ### SPEED (R235) -/

theorem setSpeed_tempo {d : BitVec 8} (h : 32 < d.toNat) (p : Player) : setSpeed d p = { p with bpm := d } :=
  if_pos h

theorem setSpeed_ticks {d : BitVec 8} (hlow : 1 ≤ d.toNat) (hhigh : d.toNat ≤ 32) (p : Player) :
    setSpeed d p = { p with speed := BitVec.ofNat 6 d.toNat } := by
  have hne : d ≠ 0 := by
    rintro rfl
    contradiction
  rw [setSpeed, if_neg hhigh.not_gt, if_pos hne]

theorem setSpeed_zero (p : Player) : setSpeed 0 p = p := rfl

/-- Settles O37: the three ranges of the operand at tick 0, and no handler later. -/
theorem speedSetsTempoOrTicks : Obligations.SpeedSetsTempoOrTicks := by
  intro smp period data s h
  refine ⟨fun h0 htempo => ?_, fun h0 hlow hhigh => ⟨_, toNat_ofNat_of_lt (by omega), ?_⟩, fun h0 hzero => ?_,
    runCell_later h⟩
  · exact runCell_tick0_player h h0 (setSpeed_tempo htempo s.p)
  · exact runCell_tick0_player h h0 (setSpeed_ticks hlow hhigh s.p)
  · subst hzero
    exact runCell_tick0_player_same h h0 (setSpeed_zero s.p)

/-! ### LOOP (R233) -/

theorem patternLoop_mark (p : Player) : patternLoop 0 p = { p with loopRow := BitVec.ofNat 6 p.row.toNat } := rfl

theorem patternLoop_count {y : BitVec 4} (hy : y ≠ 0) (p : Player) :
    patternLoop y p =
      { p with
        loopCount := nextLoopCount p.loopCount y
        flags := if nextLoopCount p.loopCount y = 0 then p.flags else p.flags ||| 0x40 } := by
  rw [patternLoop, if_neg hy, ite_not]
  rfl

/-- The loop counter in integers: set to the operand from 0, else one less, which does not wrap. -/
theorem nextLoopCount_toNat (count y : BitVec 4) :
    (nextLoopCount count y).toNat = if count = 0 then y.toNat else count.toNat - 1 := by
  rw [nextLoopCount, ite_not]
  split
  · rfl
  · next hcount =>
    have hpos : count.toNat ≠ 0 := fun e => hcount (BitVec.eq_of_toNat_eq e)
    exact BitVec.toNat_sub_of_le (BitVec.le_def.mpr (Nat.pos_of_ne_zero hpos))

/-- Settles O39: the mark with operand 0, the count with another at tick 0, and no handler later. -/
theorem loopMarksOrCountsTheRow : Obligations.LoopMarksOrCountsTheRow := by
  intro smp period y s h
  refine ⟨fun h0 hy hrow => ⟨_, toNat_ofNat_of_lt hrow, ?_⟩, fun h0 hy => ⟨_, nextLoopCount_toNat _ y, ?_⟩,
    runCell_later h⟩
  · subst hy
    exact runCell_tick0_player h h0 (patternLoop_mark s.p)
  · exact runCell_tick0_player h h0 (patternLoop_count hy s.p)

/-! ### FILTER (R232) -/

/-- The low bit of the operand clear is the operand even. -/
theorem not_lowBit_eq (y : BitVec 4) : (!y.getLsbD 0) = decide (y.toNat % 2 = 0) := by
  have hcell := not_bit0_eq (y.setWidth 32)
  rwa [BitVec.getLsbD_setWidth, BitVec.toNat_setWidth_of_le (by decide)] at hcell

theorem setFilter_four (y : BitVec 4) (p : Player) :
    setFilter 4 y p = { p with filter := decide (y.toNat % 2 = 0) } := by
  rw [setFilter, if_pos rfl, not_lowBit_eq]

theorem setFilter_other {nch : BitVec 5} (hnch : nch ≠ 4) (y : BitVec 4) (p : Player) : setFilter nch y p = p :=
  if_neg hnch

/-- At tick 0 FILTER acts on the player registers by the module's channel count. -/
theorem exec_filter_tick0 {s : State} (h : s.newTick = true) (h0 : s.p.tick = 0) (smp : BitVec 8) (period : BitVec 12)
    (y : BitVec 4) :
    exec (.filter smp period y) s =
      .next ((loadCell 0xE (0x0#4 ++ y) smp period s).setPlayer (setFilter s.m.nch y s.p)) := by
  refine (runCell_tick0 h h0).trans ?_
  rw [State.onPlayer, loadCell_m, loadCell_p]
  rfl

/-- Settles O38: the two guards at tick 0, and no handler later. -/
theorem filterFollowsTheLowBitOnFourChannels : Obligations.FilterFollowsTheLowBitOnFourChannels := by
  intro smp period y s h
  refine ⟨fun h0 hnch => ?_, fun h0 hnch => ?_, runCell_later h⟩
  · rw [exec_filter_tick0 h h0, hnch, setFilter_four]
  · rw [exec_filter_tick0 h h0, setFilter_other hnch, loadCell_setPlayer_self]

/-! ### DELAYPAT (R234) -/

theorem delayPattern_free {p : Player} (hdelay : p.patternDelay = 0) (y : BitVec 4) :
    delayPattern y p = { p with patternDelay := y, patternWait := 0 } :=
  if_pos hdelay

theorem delayPattern_pending {p : Player} (hdelay : p.patternDelay ≠ 0) (y : BitVec 4) : delayPattern y p = p :=
  if_neg hdelay

/-- Settles O40: the request taken or ignored at tick 0, and no handler later. -/
theorem delayPatIsTakenOnce : Obligations.DelayPatIsTakenOnce := by
  intro smp period y s h
  refine ⟨fun h0 hdelay => ?_, fun h0 hdelay => ?_, runCell_later h⟩
  · exact runCell_tick0_player h h0 (delayPattern_free hdelay y)
  · exact runCell_tick0_player_same h h0 (delayPattern_pending hdelay y)

/-! ### The no-op slots (R250 to R256) -/

/-- Settles O41: both handlers of each slot are empty. -/
theorem noOpSlotsOnlyLoadTheRow : Obligations.NoOpSlotsOnlyLoadTheRow := by
  intro smp period data y s
  exact ⟨runCell_noHandler .., runCell_noHandler .., runCell_noHandler .., runCell_noHandler .., runCell_noHandler ..,
    runCell_noHandler .., runCell_noHandler ..⟩

end Sys2Proof.Machine
end

section
/-! PROOFS. The row load and the note-on, and what a channel step does around its cell (44_mixer.md): the fetch, the
pitch accumulator, and the mixer with its VU registers, an equation for each. -/

namespace Sys2Proof.Machine

/-! ### The note-on (R263 to R265) -/

/-- A note strikes the voice unless the command is 3 or 5 (R264). -/
def strikes (q : BitVec 12) (v : Voice) : Bool := q != 0 && v.command != 3 && v.command != 5

theorem strikes_zero (v : Voice) : strikes 0 v = false := rfl

theorem strikes_suppressed (q : BitVec 12) {v : Voice} (h : v.command = 3 ∨ v.command = 5) : strikes q v = false := by
  rcases h with h | h <;> simp [strikes, h]

theorem strikes_struck {q : BitVec 12} {v : Voice} (hq : q ≠ 0) (h3 : v.command ≠ 3) (h5 : v.command ≠ 5) :
    strikes q v = true := by
  rw [strikes, bne_iff_ne.mpr hq, bne_iff_ne.mpr h3, bne_iff_ne.mpr h5]
  rfl

/-- The two dirty marks are all there are (10_state.md R29). -/
theorem recalcBoth_all (f : BitVec 2) : f ||| recalcSpeed ||| recalcNote = 3 :=
  (recalcBoth_eq f).trans BitVec.or_allOnes

/-- The note part, its three cases in one record. -/
theorem notePart_eq (q : BitVec 12) (v : Voice) :
    notePart q v =
      { v with
        period := if strikes q v then q else v.period
        samplepos := if strikes q v then realZero else v.samplepos
        chflags := if strikes q v then 3 else v.chflags
        noteon := strikes q v || v.noteon
        slideto := if q = 0 then v.slideto else q } := by
  by_cases hq : q = 0
  · subst hq
    rw [notePart_zero, strikes_zero]
    rfl
  · by_cases hporta : v.command = 3 ∨ v.command = 5
    · rw [notePart_suppressed q v hq hporta, strikes_suppressed q hporta, if_neg hq]
      rfl
    · obtain ⟨h3, h5⟩ := not_or.mp hporta
      rw [notePart_struck q v hq h3 h5, strikes_struck hq h3 h5, recalcBoth_all, if_neg hq]
      rfl

/-- The sample part, with the sample a number names (R265). -/
theorem samplePart_eq (m : Module) (n : BitVec 8) (v : Voice) :
    samplePart m n v =
      { v with
        sample := if h : 1 ≤ n.toNat ∧ n.toNat ≤ 31 then ⟨n.toNat - 1, by omega⟩ else v.sample
        volume := if h : 1 ≤ n.toNat ∧ n.toNat ≤ 31 then (m.smp[n.toNat - 1]'(by omega)).volume else v.volume } := by
  unfold samplePart
  by_cases h : 1 ≤ n.toNat ∧ n.toNat ≤ 31
  · rw [sampleIndex_some n h.1 h.2, dif_pos h, dif_pos h]
    rfl
  · rw [sampleIndex_none n (by omega), dif_neg h, dif_neg h]

/-- Settles O22: the note part, then the sample part of its result. -/
theorem noteOnStrikesTheVoiceAndSetsItsSample : Obligations.NoteOnStrikesTheVoiceAndSetsItsSample := by
  intro m n q v
  rw [noteOn, notePart_eq, samplePart_eq]
  rfl

/-- Settles O23: the two row loads on the two kinds of frame. -/
theorem rowLoadLatchesAndNotes : Obligations.RowLoadLatchesAndNotes := by
  intro c d n q s
  exact ⟨fun h => ⟨loadCell_old s c d n q h, loadDeferred_old s c d h⟩,
    fun h => ⟨loadCell_new s c d n q h, loadDeferred_new s c d h⟩⟩

/-! ### The step around its instruction (R260, R261) -/

/-- On a new-row frame the fetch reads the cell's four bytes. -/
theorem fetchCell_new {s : State} (h : s.newRow = true) : fetchCell (channelHead s) = s.memRead4 s.cellAddrNow :=
  if_pos h

/-- On another frame the fetch takes the latched command and data. -/
theorem fetchCell_old {s : State} (h : s.newRow = false) :
    fetchCell (channelHead s) = packCell 0 0 s.voice.command s.voice.data := by
  rw [fetchCell, if_neg (by rw [channelHead, onVoice_newRow, h]; exact Bool.false_ne_true), latchedWord,
    channelHead_voice]
  rfl

/-- A step inside a frame: the instruction of the fetched cell, the tail, the move to the next channel. -/
theorem step_of_fetched {s : State} {i : Instr} (hb : s.busy = true)
    (hi : decodeCell (fetchCell (channelHead s)) = i) :
    AnswersNext (exec i (channelHead s)) fun t => step s = .next (nextChannel (channelTail t)) := by
  subst hi
  obtain ⟨t, ht⟩ := exec_answers (channelHead s) (decodeCell (fetchCell (channelHead s)))
  refine ⟨t, ht, ?_⟩
  rw [step, if_pos hb, stepChannel, channelStep_eq ht]

/-- Settles O6: the decoded instruction is the fetched one on either kind of frame. -/
theorem stepExecutesTheDecodedInstruction : Obligations.StepExecutesTheDecodedInstruction := by
  intro s i hb _
  refine ⟨fun hrow hdecode => step_of_fetched hb ?_, fun hrow hlatched => step_of_fetched hb ?_⟩
  · rw [fetchCell_new hrow]
    exact congrArg Prod.fst (Except.ok.inj hdecode)
  · rw [fetchCell_old hrow, hlatched]

/-! ### The pitch accumulator (R267 to R270) -/

theorem marked_recalcSpeed (v : Voice) : v.marked recalcSpeed = v.chflags.getLsbD 0 := by
  simp only [Voice.marked]
  generalize v.chflags = f
  revert f
  decide

theorem marked_recalcNote (v : Voice) : v.marked recalcNote = v.chflags.getLsbD 1 := by
  simp only [Voice.marked]
  generalize v.chflags = f
  revert f
  decide

/-- The note the pitch accumulator leaves (R268). -/
def recomputedNote (v : Voice) : BitVec 6 :=
  if v.chflags.getLsbD 1 then BitVec.ofNat 6 ((noteOf v.period).getD v.note.toNat) else v.note

/-- The speed the pitch accumulator leaves a voice whose `voiceperiod` is recomputed (R269). -/
def recomputedSpeed (m : Module) (p : Player) (v : Voice) : Binary64 :=
  if (v.chflags.getLsbD 0 = true ∨ p.flags.getLsbD 1 = true) ∧ fEq v.voiceperiod realZero = false then
    speedOf v.voiceperiod m.smp[v.sample].finetune p.sampleRate
  else v.samplespeed

theorem updateNote_eq (v : Voice) : updateNote v = { v with note := recomputedNote v } := by
  unfold updateNote recomputedNote
  rw [marked_recalcNote]
  split <;> rfl

/-- The three conditions on which the speed is due (R269). -/
theorem speed_due_iff (p : Player) (v : Voice) :
    ((v.marked recalcSpeed || p.flag newRowBit) && !fEq v.voiceperiod realZero) = true ↔
      (v.chflags.getLsbD 0 = true ∨ p.flags.getLsbD 1 = true) ∧ fEq v.voiceperiod realZero = false := by
  rw [Bool.and_eq_true, Bool.or_eq_true, Bool.not_eq_true', marked_recalcSpeed, flag_newRowBit]
  rfl

theorem updateSpeed_eq (m : Module) (p : Player) (v : Voice) :
    updateSpeed m p v = { v with samplespeed := recomputedSpeed m p v } := by
  unfold updateSpeed recomputedSpeed
  simp only [speed_due_iff]
  split <;> rfl

/-- The pitch accumulator writes `voiceperiod`, the note and the speed (R260). -/
theorem updatePitch_eq (m : Module) (p : Player) (v : Voice) :
    updatePitch m p v =
      { v with
        voiceperiod := modulatedPeriod v.period v.vmod
        note := recomputedNote v
        samplespeed := recomputedSpeed m p (updateVoiceperiod v) } := by
  rw [updatePitch, updateNote_eq, updateSpeed_eq]
  rfl

/-- The recomputed note fits its register. -/
theorem recomputedNote_toNat (v : Voice) :
    (recomputedNote v).toNat =
      if v.chflags.getLsbD 1 then (noteOf v.period).getD v.note.toNat else v.note.toNat := by
  unfold recomputedNote
  split
  · refine toNat_ofNat_of_lt ?_
    cases h : noteOf v.period with
    | none => exact v.note.isLt
    | some k => exact Nat.lt_of_le_of_lt (noteOf_le h) (by decide)
  · rfl

/-! ### The note index (R268) -/

theorem periodTab_le {k : Nat} (h : k < 36) : periodTab k ≤ 856 := by
  revert k
  decide

/-- A period above the table has no note index. -/
theorem noteOf_above {q : BitVec 12} (h : 856 < q.toNat) : noteOf q = none :=
  foldl_last_none (fun k => q.toNat ≤ periodTab k) some 36 none fun _ hk =>
    Nat.not_le.mpr (Nat.lt_of_le_of_lt (periodTab_le hk) h)

/-- The note index is the last one whose table period is not below the period. -/
theorem noteOf_of_last {q : BitVec 12} {k : Nat} (hk : k ≤ 35) (hle : q.toNat ≤ periodTab k)
    (hlast : ∀ j, k < j → j ≤ 35 → periodTab j < q.toNat) : noteOf q = some k :=
  foldl_last_some (fun k => q.toNat ≤ periodTab k) some 36 none (Nat.lt_succ_of_le hk) hle fun j hj hkj =>
    Nat.not_le.mpr (hlast j hkj (Nat.le_of_lt_succ hj))

/-- A period within the table has a note index. -/
theorem exists_noteOf {q : BitVec 12} (h : q.toNat ≤ 856) :
    ∃ k, noteOf q = some k ∧ k ≤ 35 ∧ q.toNat ≤ periodTab k ∧ ∀ j, k < j → j ≤ 35 → periodTab j < q.toNat := by
  have hle : q.toNat ≤ periodTab (Nat.findGreatest (fun k => q.toNat ≤ periodTab k) 35) :=
    Nat.findGreatest_spec (P := fun k => q.toNat ≤ periodTab k) (Nat.zero_le 35) h
  have hlast : ∀ j, Nat.findGreatest (fun k => q.toNat ≤ periodTab k) 35 < j → j ≤ 35 → periodTab j < q.toNat :=
    fun j hj hj35 => Nat.not_le.mp (Nat.findGreatest_is_greatest (P := fun k => q.toNat ≤ periodTab k) hj hj35)
  exact ⟨_, noteOf_of_last (Nat.findGreatest_le 35) hle hlast, Nat.findGreatest_le 35, hle, hlast⟩

/-! ### The parts of the mix (R271 to R280) -/

/-- The accumulator the selector names takes the sum (R277). -/
theorem accumulate_eq (f : Binary64) (p : Player) :
    accumulate f p =
      { p with
        acc0 := if p.och = 0 then fAdd p.acc0 f else p.acc0
        acc1 := if p.och = 0 then p.acc1 else fAdd p.acc1 f } := by
  unfold accumulate
  by_cases h : p.och = 0
  · rw [if_pos h, if_pos h, if_pos h]
  · rw [if_neg h, if_neg h, if_neg h]

/-- A looped voice wraps at the loop's end, any other stops at the sample's (R279, R280). -/
theorem wrapOrStop_eq (d : Sample) (v : Voice) :
    wrapOrStop d v =
      { v with
        samplepos :=
          if d.looped && fLe (fOfNat (d.loopStart.toNat + d.loopLength.toNat)) v.samplepos then
            fSub v.samplepos (fOfNat d.loopLength.toNat)
          else v.samplepos
        noteon := v.noteon && (d.looped || !fLe (fOfNat d.length.toNat) v.samplepos) } := by
  unfold wrapOrStop
  cases d.looped with
  | true =>
    rw [if_pos rfl, Bool.true_and, Bool.true_or, Bool.and_true]
    split <;> rfl
  | false =>
    rw [if_neg Bool.false_ne_true, Bool.false_and, if_neg Bool.false_ne_true, Bool.false_or]
    cases fLe (fOfNat d.length.toNat) v.samplepos <;> simp

/-- The floor of a finite real is the integer at or below it (00_scope.md R11). -/
theorem fFloor_eq {a : Binary64} {i : Int} (ha : fExp a < 2047) (hlo : i * 2 ^ 1074 ≤ fUnits a)
    (hhi : fUnits a < (i + 1) * 2 ^ 1074) : fFloor a = some i := by
  have hpos : (0 : Int) < 2 ^ 1074 := Int.pow_pos (by decide)
  have hunit : (pow2 1074 : Int) = 2 ^ 1074 := by rw [pow2_eq, Nat.cast_pow, Nat.cast_ofNat]
  rw [fFloor, if_neg (Nat.ne_of_lt ha), hunit]
  generalize (2 : Int) ^ 1074 = u at *
  have hle : i ≤ fUnits a / u := (Int.le_ediv_iff_mul_le hpos).mpr hlo
  have hlt : fUnits a / u < i + 1 := (Int.ediv_lt_iff_lt_mul hpos).mpr hhi
  rw [show fUnits a / u = i by omega]

/-- The guarded fetch at the floor of a finite cursor (R274, R275). -/
theorem fetchPcm_eq (s : State) {v : Voice} {i : Int} (hfloor : fFloor v.samplepos = some i) :
    fetchPcm s v =
      if 0 ≤ i ∧ i < s.m.smp[v.sample].length.toNat then
        pcm (s.memRead1 (s.m.smp[v.sample].pcmBase.toNat + i.toNat))
      else realZero := by
  simp only [fetchPcm, fetchIndex, hfloor]
  by_cases hguard : 0 ≤ i ∧ i < s.m.smp[v.sample].length.toNat
  · simp only [if_pos hguard]
  · simp only [if_neg hguard]

/-- Whatever the cursor, the fetched value is that of a byte. -/
theorem fetchPcm_is_pcm (s : State) (v : Voice) : ∃ b, fetchPcm s v = pcm b := by
  unfold fetchPcm
  split
  · exact ⟨_, rfl⟩
  · exact ⟨0, by decide⟩

/-- What a voice adds is always finite. -/
theorem voiceOutput_finite (s : State) (v : Voice) : fExp (voiceOutput s v) < 2047 := by
  obtain ⟨b, hb⟩ := fetchPcm_is_pcm s v
  rw [voiceOutput, hb]
  exact (fUnits_scaleVolume_pcm b v.volume).2

/-! ### The channel step's tail -/

/-- The current voice with its pitch recomputed and its cursor advanced (R267 to R273). -/
def State.movedVoice (s : State) : Voice := advanceCursor (updatePitch s.m s.p s.voice)

theorem movedVoice_eq (s : State) :
    s.movedVoice =
      { s.voice with
        voiceperiod := modulatedPeriod s.voice.period s.voice.vmod
        note := recomputedNote s.voice
        samplespeed := recomputedSpeed s.m s.p (updateVoiceperiod s.voice)
        samplepos := fAdd s.voice.samplepos (recomputedSpeed s.m s.p (updateVoiceperiod s.voice)) } := by
  rw [State.movedVoice, updatePitch_eq]
  rfl

section Tail

variable (s : State)

/-- The tail of a voice that is off. -/
theorem channelTail_silent (h : s.voice.noteon = false) :
    channelTail s =
      (s.setVoice (clearChflags (updatePitch s.m s.p s.voice))).setPlayer
        { s.p with och := nextOch s.p.och s.chan, vu := s.p.vu.set s.chan (fMax s.p.vu[s.chan] realZero) } := by
  have hoff : (updatePitch s.m s.p s.voice).noteon = false := by rw [updatePitch_eq]; exact h
  unfold channelTail
  dsimp only
  rw [hoff, if_neg Bool.false_ne_true]
  rfl

/-- The tail of a sounding voice. -/
theorem channelTail_sounding (h : s.voice.noteon = true) :
    let f := voiceOutput s s.movedVoice
    let och := nextOch s.p.och s.chan
    channelTail s =
      (s.setVoice (clearChflags (wrapOrStop s.m.smp[s.voice.sample] s.movedVoice))).setPlayer
        { s.p with
          och := och
          acc0 := if och = 0 then fAdd s.p.acc0 f else s.p.acc0
          acc1 := if och = 0 then s.p.acc1 else fAdd s.p.acc1 f
          vu := s.p.vu.set s.chan (fMax s.p.vu[s.chan] (fAbs f)) } := by
  have hon : (updatePitch s.m s.p s.voice).noteon = true := by rw [updatePitch_eq]; exact h
  have hsample : s.m.smp[s.movedVoice.sample] = s.m.smp[s.voice.sample] := by simp only [movedVoice_eq]
  unfold channelTail mixSounding
  dsimp only
  rw [hon, if_pos rfl, accumulate_eq, ← hsample]
  rfl

/-- Sounding or not, the voice is left with the recomputed pitch (R267 to R270). -/
theorem channelTail_pitch :
    (channelTail s).voice.voiceperiod = modulatedPeriod s.voice.period s.voice.vmod ∧
      (channelTail s).voice.note = recomputedNote s.voice ∧
      (channelTail s).voice.samplespeed = recomputedSpeed s.m s.p (updateVoiceperiod s.voice) := by
  cases h : s.voice.noteon with
  | false =>
    rw [channelTail_silent s h, setPlayer_voice, setVoice_voice, updatePitch_eq]
    exact ⟨rfl, rfl, rfl⟩
  | true =>
    rw [channelTail_sounding s h, setPlayer_voice, setVoice_voice, wrapOrStop_eq, movedVoice_eq]
    exact ⟨rfl, rfl, rfl⟩

theorem channelTail_och : (channelTail s).p.och = nextOch s.p.och s.chan := by
  obtain ⟨v, q, ht, -, hoch, -⟩ := channelTail_cases s
  rw [ht]
  exact hoch

/-- An accumulator the selector does not name stays. -/
theorem channelTail_acc :
    (nextOch s.p.och s.chan = 0 → (channelTail s).p.acc1 = s.p.acc1) ∧
      (nextOch s.p.och s.chan ≠ 0 → (channelTail s).p.acc0 = s.p.acc0) := by
  cases h : s.voice.noteon with
  | false =>
    rw [channelTail_silent s h]
    exact ⟨fun _ => rfl, fun _ => rfl⟩
  | true =>
    rw [channelTail_sounding s h]
    exact ⟨fun hleft => if_pos hleft, fun hright => if_neg hright⟩

/-- The channel's VU register takes the magnitude of a finite real, 0.0 for a voice that is off. -/
theorem channelTail_vu :
    ∃ f, fExp f < 2047 ∧ (channelTail s).p.vu = s.p.vu.set s.chan (fMax s.p.vu[s.chan] (fAbs f)) := by
  cases h : s.voice.noteon with
  | false => exact ⟨realZero, by decide, by rw [channelTail_silent s h]; rfl⟩
  | true => exact ⟨_, voiceOutput_finite s _, by rw [channelTail_sounding s h]; rfl⟩

end Tail

/-! ### The statements of the pitch accumulator -/

/-- Settles O42: the printed table, the search in it, and the note the tail leaves. -/
theorem noteIndexIsTheLastTablePeriodNotBelow : Obligations.NoteIndexIsTheLastTablePeriodNotBelow := by
  refine ⟨rfl, fun q => ⟨noteOf_above, exists_noteOf⟩, fun s => ?_⟩
  obtain ⟨-, hnote, -⟩ := channelTail_pitch s
  rw [hnote, recomputedNote_toNat]

/-- Settles O43: the printed multipliers, and the two fields the tail leaves. -/
theorem voicePeriodAndSpeedAreRecomputed : Obligations.VoicePeriodAndSpeedAreRecomputed := by
  refine ⟨by decide, fun s => ?_⟩
  obtain ⟨hperiod, -, hspeed⟩ := channelTail_pitch s
  exact ⟨hperiod, hspeed⟩

/-! ### The statements of the mixer -/

/-- Settles O44: the tail of a voice that is off, with the recomputed pitch named. -/
theorem silentVoiceAddsNothing : Obligations.SilentVoiceAddsNothing := by
  intro s h
  obtain ⟨hperiod, hnote, hspeed⟩ := channelTail_pitch s
  dsimp only
  rw [hperiod, hnote, hspeed, channelTail_silent s h, updatePitch_eq]
  rfl

/-- Settles O45: the tail of a sounding voice, its fetch at the floor of the cursor, its wrap or stop. -/
theorem soundingVoiceMixesOneSample : Obligations.SoundingVoiceMixesOneSample := by
  intro s i v u pos d looped sample f och h hfinite hlo hhi
  obtain ⟨hperiod, hnote, hspeed⟩ := channelTail_pitch s
  have hpos : s.movedVoice.samplepos = pos := by rw [movedVoice_eq, ← hspeed]
  have hsample : s.m.smp[s.movedVoice.sample] = d := by simp only [movedVoice_eq]; rfl
  have hfetch : fetchPcm s s.movedVoice = sample := by
    rw [fetchPcm_eq s (fFloor_eq (by rwa [hpos]) (by rwa [hpos]) (by rwa [hpos])), hsample]
    rfl
  have hf : voiceOutput s s.movedVoice = f := by
    rw [voiceOutput, hfetch, movedVoice_eq]
    rfl
  rw [channelTail_sounding s h, hf, wrapOrStop_eq, hpos, movedVoice_eq, ← hperiod, ← hnote, ← hspeed]
  dsimp only
  rw [h]
  rfl

/-- A channel that finds the selector of its place leaves that of the next place (R271). -/
theorem nextOch_of_place {s : State} (h : s.p.och.toNat = s.chan.val / 2 % 2) :
    (nextOch s.p.och s.chan).toNat = (s.chan.val + 1) / 2 % 2 := by
  have hoch : s.p.och = BitVec.ofNat 1 (s.chan.val / 2) := BitVec.eq_of_toNat_eq (h.trans (BitVec.toNat_ofNat _ 1).symm)
  rw [hoch, nextOch_half, BitVec.toNat_ofNat]

/-- Settles O46: the selector after the tail names one accumulator, the tail keeps the other. -/
theorem channelUsesTheHardPannedAccumulator : Obligations.ChannelUsesTheHardPannedAccumulator := by
  intro s
  obtain ⟨hacc1, hacc0⟩ := channelTail_acc s
  refine ⟨fun h => ?_, fun h hleft => hacc1 ?_, fun h hright => hacc0 fun hzero => ?_⟩
  · rw [channelTail_och, nextOch_of_place h]
  · exact BitVec.eq_of_toNat_eq ((nextOch_of_place h).trans hleft)
  · have := nextOch_of_place h
    rw [hzero, hright] at this
    exact absurd this (by decide)

/-! ### `maxr` on numbers, and the VU registers (R278) -/

/-- Two reals with the same low 63 bits are both a NaN or neither is. -/
theorem fIsNaN_congr {a b : Binary64} (h : a.toNat % 2 ^ 63 = b.toNat % 2 ^ 63) : fIsNaN a = fIsNaN b := by
  have hfrac : fFrac a = fFrac b := by
    unfold fFrac
    omega
  rw [fIsNaN, fIsNaN, fExp_congr h, hfrac]

section Ordered

variable {a b : Binary64} (ha : fIsNaN a = false) (hb : fIsNaN b = false)
include ha hb

/-- Numbers, the infinities among them, compare by their values. -/
theorem fLt_ordered : fLt a b = decide (fUnits a < fUnits b) := by
  rw [fLt, ha, hb]
  rfl

theorem fLe_ordered : fLe a b = decide (fUnits a ≤ fUnits b) := by
  rw [fLe, ha, hb]
  rfl

theorem fEq_ordered : fEq a b = decide (fUnits a = fUnits b) := by
  rw [fEq, ha, hb]
  rfl

/-- `maxr` of two numbers is a number, the greater of their values. -/
theorem fMax_ordered : fIsNaN (fMax a b) = false ∧ fUnits (fMax a b) = max (fUnits a) (fUnits b) := by
  rw [fMax, fLt_ordered ha hb, fLt_ordered hb ha, fEq_ordered ha hb]
  rcases lt_trichotomy (fUnits a) (fUnits b) with h | h | h
  · rw [if_pos (decide_eq_true h), max_eq_right h.le]
    exact ⟨hb, rfl⟩
  · rw [if_neg (by simp [h]), if_neg (by simp [h]), if_pos (decide_eq_true h), fUnits_and h, h, max_self]
    refine ⟨?_, rfl⟩
    have hmag : fMag (a &&& b) = fMag a := by rw [← natAbs_fUnits, fUnits_and h, natAbs_fUnits]
    rw [fIsNaN_congr (low_eq_of_fMag_eq hmag), ha]
  · rw [if_neg (by simpa using h.le), if_pos (decide_eq_true h), max_eq_left h.le]
    exact ⟨ha, rfl⟩

end Ordered

/-- A register raised by the magnitude of a finite real is a number, not below what it was and not below 0.0. -/
theorem fMax_fAbs_rises {a f : Binary64} (ha : fIsNaN a = false) (hf : fExp f < 2047) :
    fIsNaN (fMax a (fAbs f)) = false ∧ fLe a (fMax a (fAbs f)) = true ∧ fLe 0 (fMax a (fAbs f)) = true := by
  have habs : fIsNaN (fAbs f) = false := by rw [fIsNaN_congr (low_fAbs f), (finite_class f hf).1]
  obtain ⟨hnum, hval⟩ := fMax_ordered ha habs
  have hzero : fUnits 0 = 0 := by decide
  have hpos : 0 ≤ fUnits (fAbs f) := by rw [fUnits_fAbs]; exact abs_nonneg _
  rw [fLe_ordered ha hnum, fLe_ordered (by decide) hnum, hval, hzero]
  exact ⟨hnum, decide_eq_true (le_max_left _ _), decide_eq_true (le_max_of_le_right hpos)⟩

/-- Settles O48: a channel's step raises its own register by a magnitude. -/
theorem vuLevelsOnlyRise : Obligations.VuLevelsOnlyRise := by
  intro s
  obtain ⟨f, hf, hvu⟩ := channelTail_vu s
  refine ⟨fun hnum => ?_, fun c hc => ?_⟩
  · have hown : (channelTail s).p.vu[s.chan] = fMax s.p.vu[s.chan] (fAbs f) := by simp [hvu]
    rw [hown]
    exact fMax_fAbs_rises hnum hf
  · have hne : s.chan.val ≠ c.val := fun e => hc (Fin.ext e.symm)
    rw [hvu]
    exact Vector.getElem_set_ne _ _ hne

end Sys2Proof.Machine
end

section
/-! PROOFS. The transactions that start no frame (45_host_operations.md R300 to R308), each in one step of an idle machine:
LOAD_IMAGE, INITIALIZE, the settings and READ_STATE. -/

namespace Sys2Proof.Machine

/-! ### One transaction (R300) -/

/-- An idle machine takes its oldest pending transaction. -/
theorem step_transaction {s : State} {op : HostOp} {rest : List HostOp} (hb : s.busy = false)
    (hhost : s.host = op :: rest) : step s = hostTurn op { s with host := rest } := by
  rw [step, if_neg (Bool.eq_false_iff.mp hb), stepHost, hhost]

/-- With nothing pending an idle machine stays as it is. -/
theorem step_noTransaction {s : State} (hb : s.busy = false) (hhost : s.host = []) : step s = .next s := by
  rw [step, if_neg (Bool.eq_false_iff.mp hb), stepHost, hhost]

/-! ### LOAD_IMAGE (R301) -/

/-- A byte string of fewer than 2^32 bytes is loaded. -/
theorem hostTurn_loadImage_of_lt {bytes : List Byte} (s : State) (hlen : bytes.length < 2 ^ 32) :
    hostTurn (.loadImage bytes) s = .next ((loadImage bytes s).answer .done) :=
  if_pos (decide_eq_true hlen)

/-- MODSIZE becomes the number of the bytes loaded. -/
theorem loadImage_modsize {bytes : List Byte} (s : State) (hlen : bytes.length < 2 ^ 32) :
    (loadImage bytes s).modsize.toNat = bytes.length :=
  (BitVec.toNat_ofNat _ _).trans (Nat.mod_eq_of_lt hlen)

/-- A loaded image reads as its bytes, and as 0x00 past them (20_memory.md R82). -/
theorem loadImage_memRead1 {bytes : List Byte} (s : State) (hlen : bytes.length < 2 ^ 32) (a : Nat) :
    (loadImage bytes s).memRead1 a = bytes.getD a 0 := by
  have hsize := loadImage_modsize s hlen
  rcases Nat.lt_or_ge a bytes.length with ha | ha
  · rw [memRead1_within _ (hsize.symm ▸ ha)]
    have hread := memLookup_memOfBytes 0 bytes a
    rwa [Nat.zero_add] at hread
  · rw [memRead1_beyond _ (hsize.symm ▸ ha), List.getD_eq_default _ _ ha]

/-- Settles O56: the step loads, and what is loaded reads back. -/
theorem loadedImageReadsBack : Obligations.LoadedImageReadsBack := by
  intro s bytes rest hb hhost hlen
  exact ⟨(loadImage bytes { s with host := rest }).answer .done,
    (step_transaction hb hhost).trans (hostTurn_loadImage_of_lt _ hlen), loadImage_modsize s hlen,
    loadImage_memRead1 s hlen, memOfBytes_wf bytes, rfl⟩

/-! ### INITIALIZE (R303) -/

/-- The reset value of `voiceperiod` is the real 214.0 (70_reset_and_hazards.md R352). -/
theorem voice_reset_voiceperiod : Voice.reset.voiceperiod = fOfNat 214 := by decide

/-- Settles O58: INITIALIZE's records, with the real 214.0 named. -/
theorem initializeResetsSequencerAndVoices : Obligations.InitializeResetsSequencerAndVoices := by
  intro s rest hb hhost
  rw [step_transaction hb hhost, ← voice_reset_voiceperiod]
  rfl

/-! ### The settings and READ_STATE (R304, R305, R308) -/

/-- A rate that is not 0 is set. -/
theorem hostTurn_setRate_ne_zero {r : BitVec 32} (s : State) (hr : r ≠ 0) :
    hostTurn (.setRate r) s = .next ((s.onPlayer fun p => { p with sampleRate := r }).answer .done) :=
  if_pos (bne_iff_ne.mpr hr)

/-- PARSE answers nothing of its own (20_memory.md R97). -/
theorem parse_replies (s : State) : (parse s).replies = s.replies := by
  unfold parse
  split <;> rfl

/-- PARSE is answered by what it leaves in `valid` (R302). -/
theorem hostTurn_parse (s : State) :
    hostTurn .parse s = .next { parse s with replies := .parsed (parse s).p.valid :: s.replies } := by
  rw [← parse_replies s]
  rfl

/-- READ_STATE answers the register it names and changes nothing else. -/
theorem step_readState {s : State} {rest : List HostOp} {r : Reg} {v : Value} (hb : s.busy = false) (hv : s.read r = v)
    (hhost : s.host = .readState r :: rest) :
    step s = .next { s with host := rest, replies := .value v :: s.replies } := by
  rw [step_transaction hb hhost, ← hv]
  rfl

/-- `finetune` in two's complement: 0 to 7, and 8 to 15 as -8 to -1 (10_state.md R65). -/
theorem read_finetune (d : Sample) :
    d.read .finetune = .int (if d.finetune.toNat ≤ 7 then d.finetune.toNat else d.finetune.toNat - 16) := by
  have hint : d.finetune.toInt = if d.finetune.toNat ≤ 7 then (d.finetune.toNat : Int) else d.finetune.toNat - 16 := by
    rw [BitVec.toInt_eq_toNat_cond]
    split <;> split <;> omega
  exact congrArg Value.int hint

/-- Settles O60: each transaction by its own turn, each register name by its reading. -/
theorem settingsAndReadsDoOnlyWhatTheySay : Obligations.SettingsAndReadsDoOnlyWhatTheySay := by
  intro s rest hb
  have turn {op : HostOp} {t : State} (hturn : hostTurn op { s with host := rest } = .next t)
      (hhost : s.host = op :: rest) : step s = .next t := (step_transaction hb hhost).trans hturn
  have read {r : Reg} {v : Value} (hv : s.read r = v) (hhost : s.host = .readState r :: rest) :
      step s = .next { s with host := rest, replies := .value v :: s.replies } := step_readState hb hv hhost
  refine ⟨step_noTransaction hb, fun r hr => turn (hostTurn_setRate_ne_zero _ hr), turn rfl, fun _ => turn rfl,
    fun _ => turn rfl, fun _ => turn rfl, turn rfl, turn (hostTurn_parse _), ?_⟩
  refine ⟨read rfl, read rfl, read rfl, read rfl, read rfl, read rfl, read rfl, read rfl, read rfl, read rfl, read rfl,
    read rfl, read rfl, read rfl, read rfl, read rfl, read rfl, read rfl, read rfl, read rfl, read rfl, read rfl,
    fun _ => read rfl, read rfl, read rfl, read rfl, read rfl, read rfl, read rfl, read rfl, read rfl, read rfl,
    fun _ => read rfl, fun c => ?voice, fun k => ?sample⟩
  case voice =>
    exact ⟨read rfl, read rfl, read rfl, read rfl, read rfl, read rfl, read rfl, read rfl, read rfl, read rfl, read rfl,
      read rfl, read rfl, read rfl, read rfl, read rfl, read rfl, read rfl, read rfl, read rfl⟩
  case sample =>
    exact ⟨read rfl, read rfl, read rfl, read rfl, read rfl, read rfl, read (read_finetune s.m.smp[k])⟩

end Sys2Proof.Machine
end

section
/-! PROOFS. FRAME and FILL, run to the frame's end (40_sequencer.md R150; 45_host_operations.md R307): no operation of a
frame reads or writes the queue, a frame in progress ends, and a FILL comes to the same frames as that many FRAMEs. -/

namespace Sys2Proof.Machine

/-! ### The engine and the queue (log 2) -/

/-- The operation neither reads nor writes the host's queue. -/
def IgnoresQueue (f : State → State) : Prop :=
  ∀ (s : State) (q : List HostOp), f { s with host := q } = { f s with host := q }

theorem ignoresQueue_comp {f g : State → State} (hf : IgnoresQueue f) (hg : IgnoresQueue g) :
    IgnoresQueue fun s => g (f s) := by
  intro s q
  dsimp only
  rw [hf, hg]

/-- An operation under a condition that does not read the queue. -/
theorem ignoresQueue_ite (c : State → Prop) [∀ s, Decidable (c s)] {f g : State → State}
    (hc : ∀ (s : State) (q : List HostOp), c { s with host := q } ↔ c s) (hf : IgnoresQueue f) (hg : IgnoresQueue g) :
    IgnoresQueue fun s => if c s then f s else g s := by
  intro s q
  simp only [hc, hf s q, hg s q]
  split <;> rfl

theorem ignoresQueue_noHandler : IgnoresQueue noHandler := fun _ _ => rfl

theorem ignoresQueue_loadCell (c : BitVec 4) (d n : BitVec 8) (p : BitVec 12) : IgnoresQueue (loadCell c d n p) :=
  ignoresQueue_ite (fun s => s.newRow = true) (fun _ _ => Iff.rfl) (fun _ _ => rfl) ignoresQueue_noHandler

theorem ignoresQueue_loadDeferred (c : BitVec 4) (d : BitVec 8) : IgnoresQueue (loadDeferred c d) :=
  ignoresQueue_ite (fun s => s.newRow = true) (fun _ _ => Iff.rfl) (fun _ _ => rfl) ignoresQueue_noHandler

theorem ignoresQueue_retrigger (y : BitVec 4) : IgnoresQueue (retrigger y) :=
  ignoresQueue_ite (fun s => y ≠ 0 ∧ s.p.tick.toNat % y.toNat = 0) (fun _ _ => Iff.rfl) (fun _ _ => rfl)
    ignoresQueue_noHandler

theorem ignoresQueue_cutNote (y : BitVec 4) : IgnoresQueue (cutNote y) :=
  ignoresQueue_ite (fun s => s.p.tick.toNat = y.toNat) (fun _ _ => Iff.rfl) (fun _ _ => rfl) ignoresQueue_noHandler

theorem ignoresQueue_delayedNote (y : BitVec 4) : IgnoresQueue (delayedNote y) :=
  ignoresQueue_ite (fun s => s.p.tick.toNat = y.toNat) (fun _ _ => Iff.rfl) (fun _ _ => rfl) ignoresQueue_noHandler

theorem ignoresQueue_dispatch {t0 t1 : State → State} (h0 : IgnoresQueue t0) (h1 : IgnoresQueue t1) :
    IgnoresQueue (dispatch t0 t1) :=
  ignoresQueue_ite (fun s => s.newTick = true) (fun _ _ => Iff.rfl)
    (ignoresQueue_ite (fun s => s.p.tick = 0) (fun _ _ => Iff.rfl) h0 h1) ignoresQueue_noHandler

theorem ignoresQueue_channelTail : IgnoresQueue channelTail :=
  ignoresQueue_ite (fun s => (updatePitch s.m s.p s.voice).noteon = true) (fun _ _ => Iff.rfl) (fun _ _ => rfl)
    fun _ _ => rfl

theorem ignoresQueue_nextChannel : IgnoresQueue nextChannel := by
  intro s q
  unfold nextChannel
  split <;> rfl

theorem ignoresQueue_enterChannels : IgnoresQueue enterChannels :=
  ignoresQueue_ite (fun s => s.m.nch = 0) (fun _ _ => Iff.rfl) (fun _ _ => rfl) fun _ _ => rfl

theorem ignoresQueue_sequence : IgnoresQueue sequence :=
  ignoresQueue_ite (fun s => s.p.endOfSong = true) (fun _ _ => Iff.rfl) (fun _ _ => rfl) fun _ _ => rfl

theorem ignoresQueue_frameStart : IgnoresQueue frameStart :=
  ignoresQueue_ite (fun s => (clearAccumulators s.p).gateOpen = true) (fun _ _ => Iff.rfl)
    (ignoresQueue_comp (f := State.onPlayer clearAccumulators) (fun _ _ => rfl)
      (ignoresQueue_comp ignoresQueue_sequence ignoresQueue_enterChannels))
    fun _ _ => rfl

/-- A cell whose handlers ignore the queue answers by an operation that does. -/
theorem runCell_ignoresQueue (c : BitVec 4) (d n : BitVec 8) (p : BitVec 12) {t0 t1 : State → State}
    (h0 : IgnoresQueue t0) (h1 : IgnoresQueue t1) :
    ∃ f, IgnoresQueue f ∧ ∀ s, runCell c d n p t0 t1 s = .next (f s) :=
  ⟨_, ignoresQueue_comp (ignoresQueue_loadCell c d n p) (ignoresQueue_dispatch h0 h1), fun _ => rfl⟩

/-- Every instruction answers by an operation that ignores the queue. -/
theorem exec_ignoresQueue (i : Instr) : ∃ f, IgnoresQueue f ∧ ∀ s, exec i s = .next (f s) := by
  cases i with
  | retrig smp period y => exact runCell_ignoresQueue _ _ _ _ (ignoresQueue_retrigger y) (ignoresQueue_retrigger y)
  | cut smp period y => exact runCell_ignoresQueue _ _ _ _ (ignoresQueue_cutNote y) (ignoresQueue_cutNote y)
  | delaynote smp period y =>
    exact ⟨_, ignoresQueue_comp (ignoresQueue_loadDeferred 0xE (nibbles 0xD y))
      (ignoresQueue_dispatch (ignoresQueue_delayedNote y) (ignoresQueue_delayedNote y)), fun _ => rfl⟩
  | _ => exact runCell_ignoresQueue _ _ _ _ (fun _ _ => rfl) fun _ _ => rfl

/-- A step inside a frame is one and the same whatever is pending; it ends at the next channel or ends the frame. -/
theorem step_busy_ignoresQueue {s : State} (hb : s.busy = true) :
    ∃ t : State, (∀ q : List HostOp, step { s with host := q } = .next { t with host := q }) ∧
      (t.busy = true → t.chan.val = s.chan.val + 1) := by
  obtain ⟨f, hf, hexec⟩ := exec_ignoresQueue (decodeCell (fetchCell (channelHead s)))
  refine ⟨nextChannel (channelTail (f (channelHead s))), fun q => ?_, fun hbusy => ?_⟩
  · have hchannel : channelStep { s with host := q } = .next { channelTail (f (channelHead s)) with host := q } := by
      rw [channelStep_eq (s := { s with host := q }) (hexec (channelHead { s with host := q })),
        ← ignoresQueue_channelTail, ← hf]
      rfl
    rw [step, if_pos (show ({ s with host := q } : State).busy = true from hb), stepChannel, hchannel]
    exact congrArg Host.Outcome.next (ignoresQueue_nextChannel _ q)
  · have hchan : (channelTail (f (channelHead s))).chan = s.chan := by
      obtain ⟨u, hu, ⟨v, p, -, rfl⟩⟩ := exec_reaches (decodeCell (fetchCell (channelHead s))) (channelHead s)
      obtain ⟨w, q, htail, -⟩ := channelTail_cases (f (channelHead s))
      rw [htail, ← Host.Outcome.next.inj (hu.symm.trans (hexec _))]
      rfl
    rcases nextChannel_cases (channelTail (f (channelHead s))) with ⟨c, hc, -, hnext⟩ | hnext
    · rw [hnext, ← hchan]
      exact hc
    · rw [hnext] at hbusy
      contradiction

/-! ### Runs -/

/-- Some number of steps leads from `s` to `t`. -/
abbrev State.Runs : State → State → Prop := Relation.ReflTransGen fun s t => step s = .next t

/-- A run that takes a step goes on from where the step leads. -/
theorem run_succ_of_step {M : Host.Core} {s u : M.State} (hstep : M.step s = .next u) (k : Nat) :
    M.run (k + 1) s = M.run k u := by
  rw [Host.Core.run, hstep]

theorem run_of_runs {s t : State} (h : s.Runs t) : ∃ k, Host.Core.run Sys2Proof.core k s = .next t := by
  induction h using Relation.ReflTransGen.head_induction_on with
  | refl => exact ⟨0, rfl⟩
  | head hstep _ ih =>
    obtain ⟨k, hk⟩ := ih
    exact ⟨k + 1, (run_succ_of_step (M := Sys2Proof.core) hstep k).trans hk⟩

/-! ### Frames -/

/-- Whatever is pending, the frame in progress at `s`, if there is one, ends at `t`. -/
def State.FrameEndsAt (s t : State) : Prop :=
  t.busy = false ∧ ∀ q : List HostOp, State.Runs { s with host := q } { t with host := q }

/-- A frame with at most `n` channels to go, the current one among them, ends. -/
theorem frameEndsAt_of_channels (n : Nat) (s : State) (hn : 28 ≤ s.chan.val + n) : ∃ t, s.FrameEndsAt t := by
  induction n generalizing s with
  | zero => exact absurd s.chan.isLt (by omega)
  | succ n ih =>
    cases hb : s.busy with
    | false => exact ⟨s, hb, fun q => .refl⟩
    | true =>
      obtain ⟨u, hstep, hchan⟩ := step_busy_ignoresQueue hb
      cases hbu : u.busy with
      | false => exact ⟨u, hbu, fun q => .head (hstep q) .refl⟩
      | true =>
        obtain ⟨t, hbt, hrun⟩ := ih u (by have := hchan hbu; omega)
        exact ⟨t, hbt, fun q => .head (hstep q) (hrun q)⟩

/-- Every frame ends. -/
theorem frameEndsAt_total (s : State) : ∃ t, s.FrameEndsAt t := frameEndsAt_of_channels 28 s (Nat.le_add_left _ _)

/-- `n` frames lead from the idle state `s` to the idle state `t`, whatever is pending. -/
inductive State.Frames : Nat → State → State → Prop
  | none {s : State} (hb : s.busy = false) : Frames 0 s s
  | next {n : Nat} {s u t : State} (hb : s.busy = false) (hframe : (frameStart s).FrameEndsAt u) (hrest : Frames n u t) :
    Frames (n + 1) s t

theorem frames_total (n : Nat) {s : State} (hb : s.busy = false) : ∃ t, State.Frames n s t := by
  induction n generalizing s with
  | zero => exact ⟨s, .none hb⟩
  | succ n ih =>
    obtain ⟨u, hframe⟩ := frameEndsAt_total (frameStart s)
    obtain ⟨t, hrest⟩ := ih hframe.1
    exact ⟨t, .next hb hframe hrest⟩

theorem frames_idle {n : Nat} {s t : State} (h : State.Frames n s t) : s.busy = false ∧ t.busy = false := by
  induction h with
  | none hb => exact ⟨hb, hb⟩
  | next hb _ _ ih => exact ⟨hb, ih.2⟩

theorem frames_add {a b : Nat} {s u t : State} (ha : State.Frames a s u) (hb : State.Frames b u t) :
    State.Frames (a + b) s t := by
  induction ha with
  | none _ => rwa [Nat.zero_add]
  | next hidle hframe _ ih =>
    rw [Nat.add_right_comm]
    exact .next hidle hframe (ih hb)

/-! ### FRAME and FILL in the queue (R306, R307) -/

/-- A transaction that starts a frame with `q` pending runs to that frame's end. -/
theorem runs_frame {s u : State} {op : HostOp} {rest q : List HostOp} (hb : s.busy = false)
    (hturn : hostTurn op { s with host := rest } = .next (frameStart { s with host := q }))
    (hframe : (frameStart s).FrameEndsAt u) : State.Runs { s with host := op :: rest } { u with host := q } := by
  refine .head ((step_transaction (s := { s with host := op :: rest }) hb rfl).trans hturn) ?_
  rw [ignoresQueue_frameStart]
  exact hframe.2 q

/-- `n` FRAMEs in the queue are `n` frames. -/
theorem runs_frames {n : Nat} {s t : State} (h : State.Frames n s t) (rest : List HostOp) :
    State.Runs { s with host := List.replicate n .frame ++ rest } { t with host := rest } := by
  induction h with
  | none _ => exact .refl
  | next hb hframe _ ih => exact .trans (runs_frame hb rfl hframe) ih

/-- A FILL of `n` frames is `n` frames. -/
theorem runs_fill {n : Nat} {s t : State} (h : State.Frames n s t) (rest : List HostOp) :
    State.Runs { s with host := .fill n :: rest } { t with host := rest } := by
  induction h with
  | @none s hb => exact .head (step_transaction (s := { s with host := .fill 0 :: rest }) hb rfl) .refl
  | @next n s u t hb hframe hrest ih =>
    refine .trans (runs_frame (q := refill n rest) hb rfl hframe) ?_
    cases n with
    | zero =>
      cases hrest
      exact .refl
    | succ n => exact ih

/-- Settles O10: all three queues are the same `a + b` frames. -/
theorem fillIsThatManyFrames : Obligations.FillIsThatManyFrames := by
  intro s rest a b hb
  obtain ⟨u, hsu⟩ := frames_total a hb
  obtain ⟨t, hut⟩ := frames_total b (frames_idle hsu).2
  have hidle : t.busy = false := (frames_idle hut).2
  have hst := frames_add hsu hut
  exact ⟨{ t with host := rest }, ⟨run_of_runs (runs_fill hst rest), hidle, rfl⟩,
    ⟨run_of_runs (runs_frames hst rest), hidle, rfl⟩,
    run_of_runs (.trans (runs_fill hsu (.fill b :: rest)) (runs_fill hut rest)), hidle, rfl⟩

end Sys2Proof.Machine
end

section
/-! PROOFS. Nothing faults (60_exceptions.md R324): a step inside a frame answers, a transaction answers or is the LOAD_IMAGE
that the model refuses by name (log 12), and a machine with nothing pending stays as it is. -/

namespace Sys2Proof.Machine

/-! ### One transaction -/

/-- A byte string of 2^32 bytes or more is refused. -/
theorem hostTurn_loadImage_of_ge {bytes : List Byte} (s : State) (hlen : 2 ^ 32 ≤ bytes.length) :
    hostTurn (.loadImage bytes) s = .refused .imageTooLong :=
  if_neg fun hok => Nat.not_lt.mpr hlen (of_decide_eq_true hok)

/-- SET_RATE answers every rate, 0 too (45_host_operations.md R304). -/
theorem hostTurn_setRate_answers (r : BitVec 32) (s : State) : ∃ t, hostTurn (.setRate r) s = .next t := by
  by_cases hr : r = 0
  · subst hr
    exact ⟨_, rfl⟩
  · exact ⟨_, hostTurn_setRate_ne_zero s hr⟩

/-- Every transaction answers, but for a LOAD_IMAGE that is too long. -/
theorem hostTurn_answers_or_refuses (op : HostOp) (s : State) :
    (∃ t, hostTurn op s = .next t) ∨
      (hostTurn op s = .refused .imageTooLong ∧ ∃ bytes, op = .loadImage bytes ∧ 2 ^ 32 ≤ bytes.length) := by
  cases op with
  | loadImage bytes =>
    rcases Nat.lt_or_ge bytes.length (2 ^ 32) with hlt | hge
    · exact Or.inl ⟨_, hostTurn_loadImage_of_lt s hlt⟩
    · exact Or.inr ⟨hostTurn_loadImage_of_ge s hge, bytes, rfl, hge⟩
  | setRate r => exact Or.inl (hostTurn_setRate_answers r s)
  | fill n => cases n <;> exact Or.inl ⟨_, rfl⟩
  | _ => exact Or.inl ⟨_, rfl⟩

/-! ### One step -/

/-- Inside a frame every step answers: its instruction does, and the tail and the move to the next channel are total. -/
theorem step_busy_answers {s : State} (hb : s.busy = true) : ∃ t, step s = .next t := by
  obtain ⟨u, -, hstep⟩ := step_of_fetched hb rfl
  exact ⟨_, hstep⟩

/-- Settles O13: inside a frame, then between frames with nothing pending and with a transaction pending. -/
theorem everyStepAnswersOrRefusesAnOverlongImage : Obligations.EveryStepAnswersOrRefusesAnOverlongImage := by
  intro s
  cases hb : s.busy with
  | true => exact Or.inl (step_busy_answers hb)
  | false =>
    cases hhost : s.host with
    | nil => exact Or.inl ⟨s, step_noTransaction hb hhost⟩
    | cons op rest =>
      rw [step_transaction hb hhost]
      rcases hostTurn_answers_or_refuses op { s with host := rest } with hnext | ⟨hrefused, bytes, rfl, hlen⟩
      · exact Or.inl hnext
      · exact Or.inr ⟨hrefused, rfl, bytes, rest, rfl, hlen⟩

end Sys2Proof.Machine
end

section
/-! PROOFS. What is stored, the descriptors and the image: a step inside a frame leaves it (20_memory.md R81, R107), and of
the transactions PARSE writes the descriptors alone and LOAD_IMAGE the image alone. -/

namespace Sys2Proof.Machine

/-! ### Steps inside a frame -/

/-- The descriptor registers and the memory: what the song reads and never writes (00_scope.md R12). -/
def State.stores (s : State) : Module × Memory × BitVec 32 := (s.m, s.image, s.modsize)

theorem memRead1_of_stores {s t : State} (h : t.stores = s.stores) (a : Nat) : t.memRead1 a = s.memRead1 a := by
  simp only [State.stores, Prod.mk.injEq] at h
  obtain ⟨-, himage, hsize⟩ := h
  rw [State.memRead1, State.memRead1, himage, hsize]

theorem reaches_stores {s t : State} (h : s.Reaches t) : t.stores = s.stores := by
  obtain ⟨v, p, -, rfl⟩ := h
  rfl

@[simp] theorem channelTail_stores (s : State) : (channelTail s).stores = s.stores := by
  simp [State.stores]

@[simp] theorem nextChannel_stores (s : State) : (nextChannel s).stores = s.stores := by
  rcases nextChannel_cases s with ⟨c, -, -, h⟩ | h <;> rw [h] <;> rfl

/-- A step inside a frame writes neither the descriptors nor the memory. -/
theorem step_busy_stores {s t : State} (hb : s.busy = true) (h : step s = .next t) : t.stores = s.stores := by
  obtain ⟨u, -, hreach, rfl⟩ := step_busy hb h
  rw [nextChannel_stores, channelTail_stores, reaches_stores hreach]
  rfl

/-! ### The transactions -/

@[simp] theorem enterChannels_stores (s : State) : (enterChannels s).stores = s.stores := by
  unfold enterChannels
  split <;> rfl

theorem frameStart_stores (s : State) : (frameStart s).stores = s.stores := by
  rcases frameStart_cases s with h | ⟨-, h⟩ <;> rw [h]
  · rfl
  · rw [enterChannels_stores, sequence_eq]
    rfl

/-- PARSE reads the memory and does not write it. -/
theorem parse_memRead1 (s : State) (a : Nat) : (parse s).memRead1 a = s.memRead1 a := by
  cases hsig : channelsOf s.signatureWord with
  | none => rw [parse_of_none hsig]; rfl
  | some nch => rw [parse_of_some hsig]; rfl

/-- What a transaction can do to what is stored: nothing, or it is a LOAD_IMAGE, which leaves the descriptors, or a PARSE,
which leaves the memory. -/
theorem hostTurn_stores {op : HostOp} {s t : State} (h : hostTurn op s = .next t) :
    t.stores = s.stores ∨ ((∃ bytes, op = .loadImage bytes) ∧ t.m = s.m) ∨
      (op = .parse ∧ ∀ a, t.memRead1 a = s.memRead1 a) := by
  cases op with
  | loadImage bytes =>
    obtain ⟨-, rfl⟩ := hostTurn_loadImage h
    exact Or.inr (Or.inl ⟨⟨bytes, rfl⟩, rfl⟩)
  | parse =>
    obtain rfl := Host.Outcome.next.inj h
    exact Or.inr (Or.inr ⟨rfl, parse_memRead1 s⟩)
  | setRate r =>
    obtain ⟨-, reply, ht⟩ := hostTurn_setRate h
    rw [ht]
    exact Or.inl rfl
  | frame => obtain rfl := Host.Outcome.next.inj h; exact Or.inl (frameStart_stores s)
  | fill n =>
    cases n with
    | zero => obtain rfl := Host.Outcome.next.inj h; exact Or.inl rfl
    | succ n => obtain rfl := Host.Outcome.next.inj h; exact Or.inl (frameStart_stores _)
  | _ => obtain rfl := Host.Outcome.next.inj h; exact Or.inl rfl

/-! ### The two statements -/

/-- What a step can do to what is stored: nothing, or it takes a LOAD_IMAGE or a PARSE from the queue. -/
theorem step_stores {s t : State} (h : step s = .next t) :
    t.stores = s.stores ∨
      (s.busy = false ∧ (∃ bytes rest, s.host = .loadImage bytes :: rest) ∧ t.m = s.m) ∨
      (s.busy = false ∧ (∃ rest, s.host = .parse :: rest) ∧ ∀ a, t.memRead1 a = s.memRead1 a) := by
  cases hb : s.busy with
  | true => exact Or.inl (step_busy_stores hb h)
  | false =>
    rcases step_idle hb h with rfl | ⟨op, rest, hhost, hturn⟩
    · exact Or.inl rfl
    · rcases hostTurn_stores hturn with hstores | ⟨⟨bytes, rfl⟩, hm⟩ | ⟨rfl, hread⟩
      · exact Or.inl hstores
      · exact Or.inr (Or.inl ⟨rfl, ⟨bytes, rest, hhost⟩, hm⟩)
      · exact Or.inr (Or.inr ⟨rfl, ⟨rest, hhost⟩, hread⟩)

/-- Settles O18: the one kind of step that writes memory is excluded. -/
theorem onlyLoadImageChangesMemory : Obligations.OnlyLoadImageChangesMemory := by
  intro s t h hno
  rcases step_stores h with hstores | ⟨hb, ⟨bytes, rest, hhost⟩, -⟩ | ⟨-, -, hread⟩
  · exact memRead1_of_stores hstores
  · exact absurd hhost (hno bytes rest hb)
  · exact hread

/-- Settles O19: the one kind of step that writes the descriptors is a PARSE. -/
theorem onlyParseWritesDescriptors : Obligations.OnlyParseWritesDescriptors := by
  intro s t h hne
  rcases step_stores h with hstores | ⟨-, -, hm⟩ | ⟨hb, hparse, -⟩
  · exact absurd (congrArg Prod.fst hstores) hne
  · exact absurd hm hne
  · exact ⟨hb, hparse⟩

end Sys2Proof.Machine
end

section
/-! PROOFS. The channel loop of a FRAME (40_sequencer.md R150, R163, R164): where it goes on and where the frame ends, and
that its steps, one channel at a time, are the whole procedure in one go (log 1). -/

namespace Sys2Proof.Machine

/-! ### The move to the next channel -/

/-- Where a next channel exists, only the loop variable moves. -/
theorem nextChannel_of_lt {s : State} {c : Fin 28} (hc : c.val = s.chan.val + 1) (hlt : c.val < s.m.nch.toNat) :
    nextChannel s = { s with chan := c } := by
  have hnext : s.chan.val + 1 < s.m.nch.toNat ∧ s.chan.val + 1 < 28 := hc ▸ ⟨hlt, c.isLt⟩
  obtain rfl : c = ⟨s.chan.val + 1, hnext.2⟩ := Fin.ext hc
  exact dif_pos hnext

/-- Past the module's last channel, or the machine's (log 13), the frame ends. -/
theorem nextChannel_of_last {s : State} (h : s.m.nch.toNat ≤ s.chan.val + 1 ∨ 28 ≤ s.chan.val + 1) :
    nextChannel s = frameEnd s :=
  dif_neg (by omega)

/-- Settles O8: the two outcomes of the move. -/
theorem lastChannelEndsTheFrame : Obligations.LastChannelEndsTheFrame := fun _ =>
  ⟨fun hlast => nextChannel_of_last (Or.inl hlast), fun _ hc hlt => nextChannel_of_lt hc hlt⟩

/-! ### The channels still to step (R164) -/

/-- The channels a frame with `n` channels steps from channel `k` on. -/
def channelsFrom (n k : Nat) : List (Fin 28) := ((List.finRange 28).drop k).filter fun c => decide (c.val < n)

theorem channelsFrom_zero (n : Nat) : channelsFrom n 0 = channelsBelow n := rfl

/-- A channel that exists comes first, and the later ones follow. -/
theorem channelsFrom_of_lt {n k : Nat} (hn : k < n) (hk : k < 28) :
    channelsFrom n k = ⟨k, hk⟩ :: channelsFrom n (k + 1) := by
  have hlen : k < (List.finRange 28).length := by rwa [List.length_finRange]
  rw [channelsFrom, List.drop_eq_getElem_cons hlen, List.getElem_finRange]
  exact List.filter_cons_of_pos (decide_eq_true hn)

/-- Past the last channel none is left. -/
theorem channelsFrom_of_last {n k : Nat} (h : n ≤ k ∨ 28 ≤ k) : channelsFrom n k = [] := by
  rw [channelsFrom, List.filter_eq_nil_iff]
  intro c hc
  obtain ⟨i, hi, rfl⟩ := List.mem_iff_getElem.mp hc
  rw [List.getElem_drop, List.getElem_finRange, decide_eq_true_eq]
  rw [List.length_drop, List.length_finRange] at hi
  simp only [Fin.val_cast]
  omega

/-- The procedure sets the loop variable itself, so that it does not matter where it stood. -/
theorem runChannels_enter {n k : Nat} (hn : k < n) (hk : k < 28) (s : State) (busy : Bool) (c : Fin 28) :
    runChannels (channelsFrom n k) { s with busy := busy, chan := c } = runChannels (channelsFrom n k) s := by
  rw [channelsFrom_of_lt hn hk]
  rfl

/-! ### The steps and the procedure -/

/-- A channel step answers, and writes its voice and the player registers alone. -/
theorem channelStep_answers (s : State) :
    ∃ (v : Voice) (p : Player), channelStep s = .next ((s.setVoice v).setPlayer p) := by
  obtain ⟨u, hu⟩ := exec_answers (channelHead s) (decodeCell (fetchCell (channelHead s)))
  have hstep := channelStep_eq hu
  obtain ⟨v, p, ht, -⟩ := channelStep_keeps hstep
  exact ⟨v, p, hstep.trans (congrArg _ ht)⟩

/-- Inside a frame a step is the channel step and the move. -/
theorem step_of_channelStep {s t : State} (hb : s.busy = true) (h : channelStep s = .next t) :
    step s = .next (nextChannel t) := by
  rw [step, if_pos hb, stepChannel, h]

/-- The procedure's channel steps from the current channel on begin with the current channel's. -/
theorem runChannels_current {s t : State} (hb : s.busy = true) (hlt : s.chan.val < s.m.nch.toNat)
    (h : channelStep s = .next t) :
    runChannels (channelsFrom s.m.nch.toNat s.chan) s =
      runChannels (channelsFrom s.m.nch.toNat (s.chan.val + 1)) t := by
  have hself : { s with busy := true, chan := s.chan } = s := by rw [← hb]
  rw [channelsFrom_of_lt hlt s.chan.isLt, runChannels, hself, h]

/-- With at most `n` channels to go, the current one among them, the steps of a frame come to the end of what the procedure
makes of these channels, and the queue is left alone. -/
theorem runs_channels (n : Nat) (s : State) (hn : 28 ≤ s.chan.val + n) (hb : s.busy = true)
    (hlt : s.chan.val < s.m.nch.toNat) :
    ∃ u, runChannels (channelsFrom s.m.nch.toNat s.chan) s = .next u ∧ s.Runs (frameEnd u) ∧ u.host = s.host := by
  induction n generalizing s with
  | zero => exact absurd s.chan.isLt (by omega)
  | succ n ih =>
    obtain ⟨v, p, hchannel⟩ := channelStep_answers s
    have hstep := step_of_channelStep hb hchannel
    have hrun := runChannels_current hb hlt hchannel
    by_cases hlast : s.m.nch.toNat ≤ s.chan.val + 1 ∨ 28 ≤ s.chan.val + 1
    · rw [nextChannel_of_last (s := (s.setVoice v).setPlayer p) hlast] at hstep
      rw [channelsFrom_of_last hlast] at hrun
      exact ⟨(s.setVoice v).setPlayer p, hrun, .single hstep, rfl⟩
    · obtain ⟨hnch, hmax⟩ : s.chan.val + 1 < s.m.nch.toNat ∧ s.chan.val + 1 < 28 := by omega
      rw [nextChannel_of_lt (s := (s.setVoice v).setPlayer p) (c := ⟨s.chan.val + 1, hmax⟩) rfl hnch] at hstep
      obtain ⟨u, hu, hruns, hhost⟩ := ih { (s.setVoice v).setPlayer p with chan := ⟨s.chan.val + 1, hmax⟩ }
        (by dsimp only; omega) hb hnch
      exact ⟨u, hrun.trans ((runChannels_enter hnch hmax _ s.busy _).symm.trans hu), .head hstep hruns, hhost⟩

/-- The channel loop, entered at channel 0, is the procedure's channel steps and the frame's end. -/
theorem runs_enterChannels (s : State) :
    ∃ u, runChannels (channelsBelow s.m.nch.toNat) s = .next u ∧ (enterChannels s).Runs (frameEnd u) ∧
      u.host = s.host := by
  rw [← channelsFrom_zero]
  rcases eq_or_ne s.m.nch 0 with hzero | hne
  · rw [channelsFrom_of_last (k := 0) (Or.inl (congrArg BitVec.toNat hzero).le), enterChannels, if_pos hzero]
    exact ⟨s, rfl, .refl, rfl⟩
  · have hpos : 0 < s.m.nch.toNat := Nat.pos_of_ne_zero fun h0 => hne (BitVec.eq_of_toNat_eq h0)
    rw [enterChannels_of_ne_zero hne, ← runChannels_enter hpos (by decide) s true 0]
    exact runs_channels 28 { s with busy := true, chan := 0 } (Nat.le_refl 28) rfl hpos

theorem frameProcedure_closed {s : State} (hgate : s.p.gateOpen = false) :
    frameProcedure s = .next ((s.onPlayer clearAccumulators).answer (.frame realZero realZero)) :=
  if_neg (Bool.eq_false_iff.mp hgate)

theorem frameProcedure_open {s u : State} (hgate : s.p.gateOpen = true)
    (hrun : runChannels (channelsBelow s.m.nch.toNat) (sequence (s.onPlayer clearAccumulators)) = .next u) :
    frameProcedure s = .next (frameEnd u) := by
  refine (if_pos hgate).trans ?_
  rw [onPlayer_m, hrun]

/-- From the start of a FRAME the steps come to rest in what the procedure gives. -/
theorem frameProcedure_of_runs (s : State) (hb : s.busy = false) :
    ∃ t, frameProcedure s = .next t ∧ (frameStart s).Runs t ∧ t.busy = false ∧ t.host = s.host := by
  cases hgate : s.p.gateOpen with
  | false =>
    rw [frameStart_closed hgate]
    exact ⟨_, frameProcedure_closed hgate, .refl, hb, rfl⟩
  | true =>
    obtain ⟨u, hrun, hruns, hhost⟩ := runs_enterChannels (sequence (s.onPlayer clearAccumulators))
    rw [sequence_eq] at hhost
    have hm : (sequence (s.onPlayer clearAccumulators)).m = s.m := by rw [sequence_eq]; rfl
    rw [hm] at hrun
    rw [frameStart_open hgate]
    exact ⟨frameEnd u, frameProcedure_open hgate hrun, hruns, rfl, hhost⟩

/-- Settles O9: the FRAME's first step is its start, and from there the steps come to the procedure's result. -/
theorem frameStepsAreTheFrameProcedure : Obligations.FrameStepsAreTheFrameProcedure := by
  intro s rest hb hhost
  obtain ⟨t, hprocedure, hruns, hidle, hrest⟩ := frameProcedure_of_runs { s with host := rest } hb
  exact ⟨t, hprocedure, run_of_runs (.head (step_frame hb hhost) hruns), hidle, hrest⟩

end Sys2Proof.Machine
end

section
/-! PROOFS. The model's own loader (log 3): the four bytes of a placed cell read back, and the next step executes it. -/

namespace Sys2Proof.Machine

/-- Four bytes written in a row read back, each at its own address. -/
theorem memLookup_fourBytes {m : Memory} (hm : m.wf = true) (a : Nat) (b0 b1 b2 b3 : Byte) :
    let written := memWrite (memWrite (memWrite (memWrite m a b0) (a + 1) b1) (a + 2) b2) (a + 3) b3
    memLookup written a = b0 ∧ memLookup written (a + 1) = b1 ∧ memLookup written (a + 2) = b2 ∧
      memLookup written (a + 3) = b3 := by
  have h1 := memWrite_wf hm a b0
  have h2 := memWrite_wf h1 (a + 1) b1
  have h3 := memWrite_wf h2 (a + 2) b2
  refine ⟨?_, ?_, ?_, memLookup_memWrite_same h3 _ _⟩
  · rw [memLookup_memWrite_other _ _ _ (by omega), memLookup_memWrite_other _ _ _ (by omega),
      memLookup_memWrite_other _ _ _ (by omega), memLookup_memWrite_same hm]
  · rw [memLookup_memWrite_other _ _ _ (by omega), memLookup_memWrite_other _ _ _ (by omega),
      memLookup_memWrite_same h1]
  · rw [memLookup_memWrite_other _ _ _ (by omega), memLookup_memWrite_same h2]

/-- The cells of every pattern, row and channel lie within 2^32 bytes (20_memory.md R93). -/
theorem cellAddrNow_lt (s : State) : s.cellAddrNow + 4 < 2 ^ 32 := by
  have hnch : s.m.nch.toNat < 32 := s.m.nch.isLt
  have hpattern : s.patternNow.toNat * (256 * s.m.nch.toNat) ≤ 255 * (256 * 31) :=
    Nat.mul_le_mul (Nat.le_of_lt_succ s.patternNow.isLt) (by omega)
  have hrow : s.p.row.toNat * (4 * s.m.nch.toNat) ≤ 255 * (4 * 31) :=
    Nat.mul_le_mul (Nat.le_of_lt_succ s.p.row.isLt) (by omega)
  have hchan := s.chan.isLt
  rw [State.cellAddrNow, cellAddr]
  omega

section Placed

variable (s : State) (nbits w : Nat)

/-- The placing leaves the registers that the cell's address is made of. -/
theorem withFetchWord_cellAddrNow : (s.withFetchWord nbits w).cellAddrNow = s.cellAddrNow := rfl

/-- The placing marks a new row. -/
theorem withFetchWord_newRow : (s.withFetchWord nbits w).newRow = true := by
  change Player.flag _ newRowBit = true
  rw [flag_newRowBit]
  change (s.p.flags ||| newTickBit ||| newRowBit)[1] = true
  rw [BitVec.getElem_or, show newRowBit[1] = true by decide, Bool.or_true]

/-- The placing raises MODSIZE to cover the cell. -/
theorem withFetchWord_modsize : s.cellAddrNow + 4 ≤ (s.withFetchWord nbits w).modsize.toNat := by
  have haddr := cellAddrNow_lt s
  have hsize := s.modsize.isLt
  change _ ≤ (BitVec.ofNat 32 (max s.modsize.toNat (s.cellAddrNow + 4))).toNat
  rw [BitVec.toNat_ofNat, Nat.mod_eq_of_lt (by omega)]
  exact Nat.le_max_right _ _

/-- The placed cell reads back at the address the row load reads. -/
theorem withFetchWord_memRead4 (hwf : s.image.wf = true) :
    (s.withFetchWord nbits w).memRead4 s.cellAddrNow = BitVec.ofNat 32 (w % 2 ^ nbits) := by
  have hsize := withFetchWord_modsize s nbits w
  obtain ⟨h0, h1, h2, h3⟩ := memLookup_fourBytes hwf s.cellAddrNow
    ((BitVec.ofNat 32 (w % 2 ^ nbits)).extractLsb' 24 8) ((BitVec.ofNat 32 (w % 2 ^ nbits)).extractLsb' 16 8)
    ((BitVec.ofNat 32 (w % 2 ^ nbits)).extractLsb' 8 8) ((BitVec.ofNat 32 (w % 2 ^ nbits)).extractLsb' 0 8)
  rw [State.memRead4, memRead1_within _ (by omega), memRead1_within _ (by omega), memRead1_within _ (by omega),
    memRead1_within _ (by omega), ← bytes_append (BitVec.ofNat 32 (w % 2 ^ nbits))]
  exact congrArg₂ (· ++ ·) (congrArg₂ (· ++ ·) (congrArg₂ (· ++ ·) h0 h1) h2) h3

end Placed

/-- Settles O7: the fetch on the new-row frame reads the placed cell, and the step executes what is fetched. -/
theorem placedWordIsTheNextInstruction : Obligations.PlacedWordIsTheNextInstruction := by
  intro s w hwf
  have hfetch : fetchCell (channelHead (s.withFetchWord 32 w)) = BitVec.ofNat 32 w := by
    rw [fetchCell_new (withFetchWord_newRow s 32 w), withFetchWord_cellAddrNow, withFetchWord_memRead4 s 32 w hwf]
    exact BitVec.eq_of_toNat_eq (by simp)
  exact ⟨hfetch, step_of_fetched rfl (congrArg decodeCell hfetch)⟩

end Sys2Proof.Machine
end

section
/-! PROOFS. The cells of the test vectors (95_test_vectors.md 2.2), each as its instruction's own encoding. -/

namespace Sys2Proof

/-- A word that is an instruction's cell decodes to that instruction. -/
theorem decodeTableWord_of_encode {i : Instr} {w : Nat} (h : encode i = BitVec.ofNat 32 (w % 2 ^ 32)) :
    decodeTableWord 32 w = some i := by
  have hround : decode (encodeBytes i) = .ok (i, []) := by
    rw [← List.append_nil (encodeBytes i), decode_encodeBytes, decodeCell_encode]
  rw [encodeBytes, h] at hround
  rw [decodeTableWord, if_pos (Nat.le_refl 32)]
  dsimp only
  rw [hround]

/-- Settles O5: each word is the encoding of the instruction named for it. -/
theorem writtenOutCellsDecode : Obligations.WrittenOutCellsDecode :=
  ⟨decodeTableWord_of_encode (by decide), decodeTableWord_of_encode (by decide), decodeTableWord_of_encode (by decide),
    decodeTableWord_of_encode (by decide), decodeTableWord_of_encode (by decide), decodeTableWord_of_encode (by decide),
    decodeTableWord_of_encode (by decide), decodeTableWord_of_encode (by decide)⟩

end Sys2Proof
end

section
/-! PROOFS. Power-on (70_reset_and_hazards.md R350 to R352): the registers hold their INITIALIZE values, and the invariant
holds. -/

namespace Sys2Proof.Machine

/-- INITIALIZE finds the player registers of power-on at its own values (R351). -/
theorem initializePlayer_reset : initializePlayer Player.reset = Player.reset := rfl

/-- INITIALIZE changes nothing at power-on. -/
theorem initializeAll_reset : initializeAll State.reset = State.reset := by
  rw [initializeAll, show State.reset.p = Player.reset from rfl, initializePlayer_reset]
  rfl

/-- Settles O59: the settings' values are written out in `Player.reset`, and the rest is INITIALIZE's. -/
theorem powerOnHoldsTheInitializeValues : Obligations.PowerOnHoldsTheInitializeValues :=
  ⟨rfl, rfl, rfl, rfl, rfl, rfl, rfl, initializeAll_reset⟩

/-- The player registers of power-on are in their ranges. -/
theorem player_reset_ok : Player.reset.Ok where
  speed_pos := by decide
  speed_le := by decide
  bpm_ge := by decide
  rate_pos := by decide
  row_lt := by decide
  tick_lt := by decide
  offset_le := Nat.zero_le _
  breakRow_le := Nat.zero_le _
  wait_le := Nat.le_refl _
  reserved_zero := by decide
  row_marks_tick := by decide
  err_le := Nat.zero_le _
  valid_no_err := nofun
  position_le := Nat.zero_le _
  position_playing _ := Nat.zero_le _
  ended_no_marks := nofun

/-- The registers, the cleared descriptors and the empty image of power-on are in their ranges. -/
theorem reset_inRange : State.reset.InRange where
  player := player_reset_ok
  voices c := by
    rw [show State.reset.ch[c] = Voice.reset from Vector.getElem_replicate _]
    exact voice_reset_ok
  samples k := by
    rw [show State.reset.m.smp[k] = Sample.cleared from Vector.getElem_replicate _]
    exact cleared_sample_ok
  nch := Or.inl rfl
  patterns := nofun
  image_wf := reset_image_wf
  image_below := nofun

/-- Settles O14: everything is in range, and no frame is in progress. -/
theorem resetSatisfiesTheInvariant : Obligations.ResetSatisfiesTheInvariant :=
  (inv_iff State.reset).mpr ⟨reset_inRange, frameOk_idle rfl rfl (Or.inr (by decide))⟩

end Sys2Proof.Machine
end
